-- ==== Sys2Proof/Word.lean ====
section
/-!
DEFINITION. The words of the hardware: a byte is 8 bits and an address names one byte (`20_memory.md` R50), addresses
and general registers are 64 bits (`10_state.md` R26, R31). Bit 0 is the least significant bit (`00_scope.md` R9).
-/
namespace Sys2Proof

/-- One byte (R50). -/
abbrev Byte := BitVec 8

/-- A linear address, an effective address or a general register (R26, R31). -/
abbrev Word64 := BitVec 64

end Sys2Proof
end

