-- ==== Sys2Proof/Config.lean ====
section
/-!
DEFINITION. The configuration of the machine, `00_scope.md` R8: what no rule of the spec writes. It is plain data, and
`Machine.State` carries one, so that every statement about a state holds for every configuration (assumption log 1).
There is no free value in this model: the spec leaves no result of a form undefined.
-/
namespace Sys2Proof

/-- The two execution modes in scope (R6 d, R8). -/
inductive Mode where
  /-- 64-bit mode. -/
  | mode64
  /-- Flat 32-bit protected (and compatibility) mode. -/
  | mode32
  deriving DecidableEq, Repr

/-- The six CPUID feature flags in scope (R2). -/
inductive Feature where
  | ssse3 | avx | avx2 | avx512f | avx512bw | avx512vl
  deriving DecidableEq, Repr

/-- Which feature flags the processor reports (R2, R8: `feat`). -/
structure Features where
  ssse3    : Bool
  avx      : Bool
  avx2     : Bool
  avx512f  : Bool
  avx512bw : Bool
  avx512vl : Bool
  deriving DecidableEq, Repr

/-- `feat(f)` (R2). -/
def Features.has (t : Features) : Feature → Bool
  | .ssse3    => t.ssse3
  | .avx      => t.avx
  | .avx2     => t.avx2
  | .avx512f  => t.avx512f
  | .avx512bw => t.avx512bw
  | .avx512vl => t.avx512vl

/-- The system-software enables that the exception checks read (`10_state.md` R29: `env`). -/
structure Env where
  /-- CR0.EM, x87, MMX and SSE emulation. -/
  cr0Em : Bool
  /-- CR0.TS, task switched. -/
  cr0Ts : Bool
  /-- CR0.AM, alignment mask. -/
  cr0Am : Bool
  /-- CR4.OSFXSR. -/
  cr4Osfxsr : Bool
  /-- CR4.OSXSAVE. -/
  cr4Osxsave : Bool
  /-- XCR0 bit 1, SSE state enabled. -/
  xcr0Sse : Bool
  /-- XCR0 bit 2, AVX state enabled. -/
  xcr0Avx : Bool
  /-- XCR0 bit 5, opmask state enabled. -/
  xcr0Opmask : Bool
  /-- XCR0 bit 6, upper halves of ZMM0 to ZMM15 enabled. -/
  xcr0ZmmHi256 : Bool
  /-- XCR0 bit 7, ZMM16 to ZMM31 enabled. -/
  xcr0Hi16Zmm : Bool
  /-- EFLAGS.AC, alignment check. -/
  eflagsAc : Bool
  /-- The current privilege level, 0 to 3. -/
  cpl : BitVec 2
  /-- An unmasked x87 floating-point exception is pending. -/
  x87Pending : Bool
  deriving DecidableEq, Repr

/-- The kinds of access that `Access` tells apart (`20_memory.md` R62). -/
inductive AccessKind where
  | dataRead | fetch
  deriving DecidableEq, Repr

/-- One row of the table that stands for `Access` (`20_memory.md` R62, assumption log 2): an access of `kind` that
reads `width` bytes, starts at a linear address from `first` to `last` and is made at one of the privilege levels
`cpls` answers `PageFault(code)`. -/
structure AccessFault where
  kind  : AccessKind
  /-- The privilege levels at which the access faults, the part of `env` that `Access` uses (`10_state.md` R29,
  `60_exceptions.md` R247). -/
  cpls  : List (BitVec 2)
  first : Nat
  last  : Nat
  width : Nat
  /-- The fault code. R62 and R211 give it no width; 32 bits are the model's choice (assumption log 2, DESIGN
  CHOICE). -/
  code  : BitVec 32
  deriving DecidableEq, Repr

/-- The row speaks of the access of `n` bytes at `lin` under `env`. -/
def AccessFault.covers (e : AccessFault) (env : Env) (kind : AccessKind) (lin n : Nat) : Bool :=
  decide (e.kind = kind) && e.cpls.contains env.cpl && decide (e.first ≤ lin) && decide (lin ≤ e.last) &&
    decide (e.width = n)

/-- An interval of linear addresses that is not ordinary memory: a read there may have side effects or answer something
else each time (`20_memory.md` R60, assumption log 21). -/
structure DeviceRange where
  first : Nat
  last  : Nat
  deriving DecidableEq, Repr

/-- None of the `n` bytes from `lin` on lies in the interval. -/
def DeviceRange.avoids (d : DeviceRange) (lin n : Nat) : Bool := decide (lin + n ≤ d.first) || decide (d.last < lin)

/-- The linear-address width `LAW`, 48 unless the platform says 57 (`20_memory.md` R63). -/
inductive LinearWidth where
  | w48 | w57
  deriving DecidableEq, Repr

/-- `LAW` in bits. -/
def LinearWidth.bits : LinearWidth → Nat
  | .w48 => 48
  | .w57 => 57

/-- The alignment-check policies (`20_memory.md` R58). -/
inductive AcPolicy where
  | never | mmxOnly | smallOnly | always
  deriving DecidableEq, Repr

/-- The configuration record (R8). `MAXVL`, `KW` and `NVEC` are the definitions below it. `debugArmed` and
`devices` are not in R8: they carry the launch premises `NoDebug` and `Readable` of `70_reset_and_hazards.md` R262
(assumption logs 20 and 21). -/
structure Config where
  mode     : Mode
  feat     : Features
  env      : Env
  /-- `Access`, as the list of the accesses that page-fault; the first row that covers an access decides. -/
  access   : List AccessFault
  law      : LinearWidth
  acPolicy : AcPolicy
  /-- Masked-off elements of an EVEX memory source are exempt from memory faults (`60_exceptions.md` R236). -/
  suppress : Bool
  /-- The address at which a run ends (`70_reset_and_hazards.md` R268). -/
  endAddr  : Word64
  /-- A breakpoint, single-step or trace facility is armed (`60_exceptions.md` R252). -/
  debugArmed : Bool
  /-- The addresses that are not ordinary memory, a matter of the platform's address map (`20_memory.md` R60, R61). -/
  devices : List DeviceRange
  deriving DecidableEq, Repr

/-- `MAXVL`, the width of a full vector register: 512 always, as R7 allows (assumption log 3, DESIGN CHOICE). -/
def maxvl : Nat := 512

/-- `KW`, the width of an opmask register (`10_state.md` R25). -/
def kw : Nat := 64

/-- The three encoding classes (`30_encoding.md` R80). -/
inductive EncClass where
  | legacy | vex | evex
  deriving DecidableEq, Repr

/-- `NVEC`, the number of vector registers a form can name (`10_state.md` R21). -/
def nvec : Mode → EncClass → Nat
  | .mode32, _       => 8
  | .mode64, .legacy => 16
  | .mode64, .vex    => 16
  | .mode64, .evex   => 32

end Sys2Proof
end

