-- ==== Sys2Proof/Syntax.lean ====
section
/-!
DEFINITION. The syntax of the 24 forms (`00_scope.md` R3, one constructor per row of `spec/opcode_table.json`), with
the fields of their encodings under the spec's names (`30_encoding.md` R90 to R101). A field that the opcode table's
mask leaves out (`vvvv`, V', z, b, aaa, the register-extension bits, the reserved bits, a stray prefix: R132) is kept
as it stands in the bytes: R117 to R126 say what it does, and the meanings of the forms raise their `#UD` (R218 to R222).
-/
namespace Sys2Proof

/-- The segment registers a memory operand can go through (`10_state.md` R30). -/
inductive Seg where
  | es | cs | ss | ds | fs | gs
  deriving DecidableEq, Repr

/-- The four low bits of a REX byte (`30_encoding.md` R92). -/
structure Rex where
  w : Bool
  r : Bool
  x : Bool
  b : Bool
  deriving DecidableEq, Repr

/-- The prefix bytes in front of the core bytes: which of them are present. Their order, but for REX, which is last,
says nothing (`30_encoding.md` R90, R91). -/
structure Prefixes where
  /-- A segment override (26, 2E, 36, 3E, 64, 65). -/
  seg    : Option Seg := none
  /-- 67, the address-size prefix. -/
  addr32 : Bool := false
  /-- F0, LOCK. -/
  lock   : Bool := false
  /-- 66: mandatory in the legacy xmm forms, a fault before VEX or EVEX (R91, R121). -/
  opsize : Bool := false
  /-- F2. -/
  repne  : Bool := false
  /-- F3. -/
  rep    : Bool := false
  /-- The REX byte. -/
  rex    : Option Rex := none
  deriving DecidableEq, Repr

/-- The displacement of a memory operand: none, one byte, or four bytes (R101). -/
inductive Disp where
  | d0
  | d8  (v : BitVec 8)
  | d32 (v : BitVec 32)
  deriving DecidableEq, Repr

/-- The addressing forms of a memory operand, `mod ≠ 11b` (R103, R104). -/
inductive MemRef where
  /-- No SIB byte, base register `r/m`. -/
  | base (rm : BitVec 3) (disp : Disp)
  /-- `mod = 00b`, `r/m = 101b`: RIP-relative in 64-bit mode, `disp32` alone in 32-bit mode. -/
  | dispOnly (disp : BitVec 32)
  /-- A SIB byte with a base register. -/
  | sib (scale : BitVec 2) (index base : BitVec 3) (disp : Disp)
  /-- A SIB byte with `base = 101b` and `mod = 00b`: no base register and four displacement bytes. -/
  | sibNoBase (scale : BitVec 2) (index : BitVec 3) (disp : BitVec 32)
  deriving DecidableEq, Repr

/-- What `mod` and `r/m` name: a register or a memory operand (R99, R102). -/
inductive RM where
  | reg (rm : BitVec 3)
  | mem (m : MemRef)
  deriving DecidableEq, Repr

/-- The fields of a legacy-encoded form (R80, R90 to R92, R99). -/
structure LegacyForm where
  pfx : Prefixes
  reg : BitVec 3
  rm  : RM
  deriving DecidableEq, Repr

/-- The fields of a VEX-encoded form (R93); the bits R̄, X̄, B̄ and `vvvv` as they stand in the bytes. -/
structure VexForm where
  pfx  : Prefixes
  rBar : Bool
  xBar : Bool
  bBar : Bool
  w    : Bool
  vvvv : BitVec 4
  reg  : BitVec 3
  rm   : RM
  deriving DecidableEq, Repr

/-- The fields of an EVEX-encoded form (R97); the inverted bits and the fixed bits as they stand in the bytes. -/
structure EvexForm where
  pfx   : Prefixes
  rBar  : Bool
  xBar  : Bool
  bBar  : Bool
  /-- R̄', `P0[4]`. -/
  rHiBar : Bool
  /-- `P0[3:2]`, which must be 00b (R126). -/
  p0Fixed : BitVec 2
  w     : Bool
  vvvv  : BitVec 4
  /-- `P1[2]`, which must be 1 (R126). -/
  p1Fixed : Bool
  z     : Bool
  b     : Bool
  /-- V̄', `P2[3]`, which must be 1 (R118). -/
  vHiBar : Bool
  aaa   : BitVec 3
  reg   : BitVec 3
  rm    : RM
  deriving DecidableEq, Repr

/-- The 24 forms in the order of the opcode table (`30_encoding.md` R89). -/
inductive Instr where
  /-- Row 1, `NP 0F 38 1C /r`: PABSB mm1, mm2/m64. -/
  | pabsbMm (f : LegacyForm)
  /-- Row 2, `66 0F 38 1C /r`: PABSB xmm1, xmm2/m128. -/
  | pabsbXmm (f : LegacyForm)
  /-- Row 3, `NP 0F 38 1D /r`: PABSW mm1, mm2/m64. -/
  | pabswMm (f : LegacyForm)
  /-- Row 4, `66 0F 38 1D /r`: PABSW xmm1, xmm2/m128. -/
  | pabswXmm (f : LegacyForm)
  /-- Row 5, `NP 0F 38 1E /r`: PABSD mm1, mm2/m64. -/
  | pabsdMm (f : LegacyForm)
  /-- Row 6, `66 0F 38 1E /r`: PABSD xmm1, xmm2/m128. -/
  | pabsdXmm (f : LegacyForm)
  /-- Row 7, `VEX.128.66.0F38.WIG 1C /r`. -/
  | vpabsbVex128 (f : VexForm)
  /-- Row 8, `VEX.128.66.0F38.WIG 1D /r`. -/
  | vpabswVex128 (f : VexForm)
  /-- Row 9, `VEX.128.66.0F38.WIG 1E /r`. -/
  | vpabsdVex128 (f : VexForm)
  /-- Row 10, `VEX.256.66.0F38.WIG 1C /r`. -/
  | vpabsbVex256 (f : VexForm)
  /-- Row 11, `VEX.256.66.0F38.WIG 1D /r`. -/
  | vpabswVex256 (f : VexForm)
  /-- Row 12, `VEX.256.66.0F38.WIG 1E /r`. -/
  | vpabsdVex256 (f : VexForm)
  /-- Row 13, `EVEX.128.66.0F38.WIG 1C /r`. -/
  | vpabsbEvex128 (f : EvexForm)
  /-- Row 14, `EVEX.256.66.0F38.WIG 1C /r`. -/
  | vpabsbEvex256 (f : EvexForm)
  /-- Row 15, `EVEX.512.66.0F38.WIG 1C /r`. -/
  | vpabsbEvex512 (f : EvexForm)
  /-- Row 16, `EVEX.128.66.0F38.WIG 1D /r`. -/
  | vpabswEvex128 (f : EvexForm)
  /-- Row 17, `EVEX.256.66.0F38.WIG 1D /r`. -/
  | vpabswEvex256 (f : EvexForm)
  /-- Row 18, `EVEX.512.66.0F38.WIG 1D /r`. -/
  | vpabswEvex512 (f : EvexForm)
  /-- Row 19, `EVEX.128.66.0F38.W0 1E /r`. -/
  | vpabsdEvex128 (f : EvexForm)
  /-- Row 20, `EVEX.256.66.0F38.W0 1E /r`. -/
  | vpabsdEvex256 (f : EvexForm)
  /-- Row 21, `EVEX.512.66.0F38.W0 1E /r` (restored, R87). -/
  | vpabsdEvex512 (f : EvexForm)
  /-- Row 22, `EVEX.128.66.0F38.W1 1F /r`. -/
  | vpabsqEvex128 (f : EvexForm)
  /-- Row 23, `EVEX.256.66.0F38.W1 1F /r`. -/
  | vpabsqEvex256 (f : EvexForm)
  /-- Row 24, `EVEX.512.66.0F38.W1 1F /r`. -/
  | vpabsqEvex512 (f : EvexForm)
  deriving DecidableEq, Repr

/-- Why bytes are given no meaning, by name (`30_encoding.md` R90, R92, R105, R107, R109, R123, R124; every one is a
refusal, which errs toward unprovable). -/
inductive Reject where
  /-- A prefix byte that stands twice (R90, R124). -/
  | repeatedPrefix
  /-- Two different segment overrides (R90, R124). -/
  | twoSegmentOverrides
  /-- A CS, DS, ES or SS override in 64-bit mode (R90, R107). -/
  | nullSegmentOverride
  /-- 67 in 32-bit mode: 16-bit addressing (R90, R105; `00_scope.md` R6 d). -/
  | addressSize16
  /-- A REX byte that does not stand immediately before the escape (R92). -/
  | misplacedRex
  /-- F2 or F3 before a legacy form (R124). -/
  | repBeforeLegacy
  /-- An MMX form with REX.R = 1, or with REX.B = 1 and a register source (R109). -/
  | mmxRexExtension
  /-- The bytes are not an instruction of this group (R94, R95, R98, R123). -/
  | notInGroup
  deriving DecidableEq, Repr

end Sys2Proof
end

