-- ==== Sys2Proof/WellFormed.lean ====
section
/-!
DEFINITION. Which terms of `Instr` stand for an admitted encoding in a mode (`00_scope.md` R15): the checks the
encoding rules make on the fields. A reserved field with a value that raises `#UD` (R117 to R122, R126) is an admitted
encoding with a fault, not an ill-formed term.
-/
namespace Sys2Proof

/-- The addressing forms that the ModR/M and SIB bytes can say (R100, R101, R103, R104): `r/m = 100b` means a SIB
byte, and with `mod = 00b` the value 101b of `r/m` or of `base` means no base register. -/
def MemRef.wellFormed : MemRef → Bool
  | .base rm d    => rm != 4#3 && !(rm == 5#3 && d == .d0)
  | .dispOnly _   => true
  | .sib _ _ b d  => !(b == 5#3 && d == .d0)
  | .sibNoBase .. => true

/-- A register operand is always well formed (R102). -/
def RM.wellFormed : RM → Bool
  | .reg _ => true
  | .mem m => m.wellFormed

/-- R90, R92, R105, R107: in 64-bit mode only the FS and GS overrides; in 32-bit mode no 67 and no REX byte. -/
def Prefixes.wellFormed (p : Prefixes) : Mode → Bool
  | .mode64 => p.seg == none || p.seg == some .fs || p.seg == some .gs
  | .mode32 => !p.addr32 && p.rex == none

/-- A legacy form: no F2 or F3 (R124); `66` present exactly in the xmm forms (R91). -/
def LegacyForm.wellFormed (f : LegacyForm) (mode : Mode) (xmm : Bool) : Bool :=
  f.pfx.wellFormed mode && f.rm.wellFormed && !f.pfx.repne && !f.pfx.rep && f.pfx.opsize == xmm

/-- R109: an MMX form with REX.R = 1, or with REX.B = 1 and a register source, is not admitted. -/
def LegacyForm.mmxRexOk (f : LegacyForm) : Bool :=
  match f.pfx.rex, f.rm with
  | some rex, .reg _ => !rex.r && !rex.b
  | some rex, .mem _ => !rex.r
  | none, _          => true

/-- An MMX form. -/
def LegacyForm.mmxWellFormed (f : LegacyForm) (mode : Mode) : Bool :=
  f.wellFormed mode false && f.mmxRexOk

/-- An xmm form. -/
def LegacyForm.xmmWellFormed (f : LegacyForm) (mode : Mode) : Bool :=
  f.wellFormed mode true

/-- A VEX form: in 32-bit mode all extension bits are 1 (R95). -/
def VexForm.wellFormed (f : VexForm) (mode : Mode) : Bool :=
  f.pfx.wellFormed mode && f.rm.wellFormed && (mode == .mode64 || (f.rBar && f.xBar && f.bBar))

/-- An EVEX form: in 32-bit mode `P0[7:4] = 1111b` (R98). -/
def EvexForm.wellFormed (f : EvexForm) (mode : Mode) : Bool :=
  f.pfx.wellFormed mode && f.rm.wellFormed && (mode == .mode64 || (f.rBar && f.xBar && f.bBar && f.rHiBar))

/-- The term stands for an admitted encoding in `mode`. `W` is 0 in the EVEX VPABSD forms and 1 in the VPABSQ forms
(R83, R88). -/
def Instr.wellFormed (mode : Mode) : Instr → Bool
  | .pabsbMm f       => f.mmxWellFormed mode
  | .pabsbXmm f      => f.xmmWellFormed mode
  | .pabswMm f       => f.mmxWellFormed mode
  | .pabswXmm f      => f.xmmWellFormed mode
  | .pabsdMm f       => f.mmxWellFormed mode
  | .pabsdXmm f      => f.xmmWellFormed mode
  | .vpabsbVex128 f  => f.wellFormed mode
  | .vpabswVex128 f  => f.wellFormed mode
  | .vpabsdVex128 f  => f.wellFormed mode
  | .vpabsbVex256 f  => f.wellFormed mode
  | .vpabswVex256 f  => f.wellFormed mode
  | .vpabsdVex256 f  => f.wellFormed mode
  | .vpabsbEvex128 f => f.wellFormed mode
  | .vpabsbEvex256 f => f.wellFormed mode
  | .vpabsbEvex512 f => f.wellFormed mode
  | .vpabswEvex128 f => f.wellFormed mode
  | .vpabswEvex256 f => f.wellFormed mode
  | .vpabswEvex512 f => f.wellFormed mode
  | .vpabsdEvex128 f => f.wellFormed mode && !f.w
  | .vpabsdEvex256 f => f.wellFormed mode && !f.w
  | .vpabsdEvex512 f => f.wellFormed mode && !f.w
  | .vpabsqEvex128 f => f.wellFormed mode && f.w
  | .vpabsqEvex256 f => f.wellFormed mode && f.w
  | .vpabsqEvex512 f => f.wellFormed mode && f.w

end Sys2Proof
end

