-- ==== Sys2Proof/Decode.lean ====
section
/-!
DEFINITION. Decoding (`30_encoding.md` R80 to R127), total on any bytes, and after it the encoder and the length of an
instruction (R115). Bytes stand in memory order, the lowest address first (`20_memory.md` R68).
-/
namespace Sys2Proof

/-! ### Bytes of the prefixes -/

/-- The legacy prefix bytes (R90, R114 step 1). -/
inductive PfxByte where
  | seg (s : Seg)
  | opsize
  | addr32
  | lock
  | repne
  | rep
  deriving DecidableEq, Repr

/-- The segment-override bytes (R90). -/
def segCode : Seg → Byte
  | .es => 0x26#8
  | .cs => 0x2E#8
  | .ss => 0x36#8
  | .ds => 0x3E#8
  | .fs => 0x64#8
  | .gs => 0x65#8

/-- Which legacy prefix a byte is, if it is one (R114 step 1). -/
def pfxByte (b : Byte) : Option PfxByte :=
  if b = 0x26#8 then some (.seg .es)
  else if b = 0x2E#8 then some (.seg .cs)
  else if b = 0x36#8 then some (.seg .ss)
  else if b = 0x3E#8 then some (.seg .ds)
  else if b = 0x64#8 then some (.seg .fs)
  else if b = 0x65#8 then some (.seg .gs)
  else if b = 0x66#8 then some .opsize
  else if b = 0x67#8 then some .addr32
  else if b = 0xF0#8 then some .lock
  else if b = 0xF2#8 then some .repne
  else if b = 0xF3#8 then some .rep
  else none

/-- One more legacy prefix after those of `p`: R90 admits each at most once, one segment override, in 64-bit mode only
FS and GS (R107), and 67 in 64-bit mode only (R105). That these refusals come before the `#UD` of R121 is the model's
reading (assumption log 13). -/
def addPrefix (mode : Mode) (p : Prefixes) : PfxByte → Except Reject Prefixes
  | .seg s =>
    if p.seg = some s then .error .repeatedPrefix
    else if p.seg.isSome then .error .twoSegmentOverrides
    else if mode = .mode64 ∧ s ≠ .fs ∧ s ≠ .gs then .error .nullSegmentOverride
    else .ok { p with seg := some s }
  | .opsize => if p.opsize then .error .repeatedPrefix else .ok { p with opsize := true }
  | .addr32 =>
    if mode = .mode32 then .error .addressSize16
    else if p.addr32 then .error .repeatedPrefix
    else .ok { p with addr32 := true }
  | .lock  => if p.lock then .error .repeatedPrefix else .ok { p with lock := true }
  | .repne => if p.repne then .error .repeatedPrefix else .ok { p with repne := true }
  | .rep   => if p.rep then .error .repeatedPrefix else .ok { p with rep := true }

/-- What reading the prefixes answers: the prefixes and the bytes from the opcode on, a refusal, or that the bytes end. -/
inductive PfxResult where
  | ok (p : Prefixes) (rest : List Byte)
  | reject (r : Reject)
  | truncated
  deriving DecidableEq, Repr

/-- R114 step 1: the legacy prefixes. -/
def scanPrefixes (mode : Mode) (p : Prefixes) : List Byte → PfxResult
  | [] => .truncated
  | b :: bs =>
    match pfxByte b with
    | none => .ok p (b :: bs)
    | some k =>
      match addPrefix mode p k with
      | .error r => .reject r
      | .ok p'   => scanPrefixes mode p' bs

/-- A byte from 40 to 4F (R92). -/
def isRexByte (b : Byte) : Bool := b.extractLsb' 4 4 == 4#4

/-- The fields of a REX byte (R92). -/
def rexOf (b : Byte) : Rex :=
  { w := b.getLsbD 3, r := b.getLsbD 2, x := b.getLsbD 1, b := b.getLsbD 0 }

/-- R114 step 2: in 64-bit mode a REX byte, which stands immediately before the opcode (R92). -/
def scanRex (mode : Mode) (p : Prefixes) (bs : List Byte) : PfxResult :=
  match bs with
  | [] => .truncated
  | b :: rest =>
    if mode = .mode64 ∧ isRexByte b then
      match rest with
      | [] => .truncated
      | n :: _ =>
        if (pfxByte n).isSome || isRexByte n then .reject .misplacedRex
        else .ok { p with rex := some (rexOf b) } rest
    else .ok p bs

/-! ### ModR/M, SIB and displacement -/

/-- A four-byte displacement, little-endian (R101). -/
def takeDisp32 : List Byte → Option (BitVec 32 × List Byte)
  | b0 :: b1 :: b2 :: b3 :: bs => some (b3 ++ b2 ++ b1 ++ b0, bs)
  | _ => none

/-- The displacement that `mod` announces (R101), the cases `mod = 00b` with 101b apart. -/
def takeDisp (md : BitVec 2) (bs : List Byte) : Option (Disp × List Byte) :=
  if md = 1#2 then
    match bs with
    | [] => none
    | b :: rest => some (.d8 b, rest)
  else if md = 2#2 then (takeDisp32 bs).map fun r => (.d32 r.1, r.2)
  else some (.d0, bs)

/-- The bytes after a ModR/M byte with `r/m = 100b`: the SIB byte and the displacement (R100, R104). -/
def takeSib (md : BitVec 2) : List Byte → Option (MemRef × List Byte)
  | [] => none
  | b :: bs =>
    if md = 0#2 ∧ b.extractLsb' 0 3 = 5#3 then
      (takeDisp32 bs).map fun r => (.sibNoBase (b.extractLsb' 6 2) (b.extractLsb' 3 3) r.1, r.2)
    else
      (takeDisp md bs).map fun r =>
        (.sib (b.extractLsb' 6 2) (b.extractLsb' 3 3) (b.extractLsb' 0 3) r.1, r.2)

/-- What `mod` and `r/m` name, with the SIB byte and the displacement that follow (R102, R103). -/
def takeRM (md : BitVec 2) (rm : BitVec 3) (bs : List Byte) : Option (RM × List Byte) :=
  if md = 3#2 then some (.reg rm, bs)
  else if rm = 4#3 then (takeSib md bs).map fun r => (.mem r.1, r.2)
  else if md = 0#2 ∧ rm = 5#3 then (takeDisp32 bs).map fun r => (.mem (.dispOnly r.1), r.2)
  else (takeDisp md bs).map fun r => (.mem (.base rm r.1), r.2)

/-- The ModR/M byte and what follows it (R99): the field `reg`, the operand of `mod` and `r/m`, and the bytes after
them; nothing if the bytes end before. -/
def takeOperands : List Byte → Option (BitVec 3 × RM × List Byte)
  | [] => none
  | b :: bs =>
    (takeRM (b.extractLsb' 6 2) (b.extractLsb' 0 3) bs).map fun r => (b.extractLsb' 3 3, r.1, r.2)

/-! ### Rows -/

/-- The legacy row of an opcode byte, by the mandatory prefix (R91, R89 rows 1 to 6). -/
def legacyRow (op : Byte) (xmm : Bool) : Option (LegacyForm → Instr) :=
  if op = 0x1C#8 then some (if xmm then .pabsbXmm else .pabsbMm)
  else if op = 0x1D#8 then some (if xmm then .pabswXmm else .pabswMm)
  else if op = 0x1E#8 then some (if xmm then .pabsdXmm else .pabsdMm)
  else none

/-- The VEX row of an opcode byte and L (R89 rows 7 to 12). -/
def vexRow (op : Byte) (l : Bool) : Option (VexForm → Instr) :=
  if op = 0x1C#8 then some (if l then .vpabsbVex256 else .vpabsbVex128)
  else if op = 0x1D#8 then some (if l then .vpabswVex256 else .vpabswVex128)
  else if op = 0x1E#8 then some (if l then .vpabsdVex256 else .vpabsdVex128)
  else none

/-- The vector lengths that `L'L` names (R83, R111); `11b` names none (R119). -/
inductive VecLen where
  | v128 | v256 | v512
  deriving DecidableEq, Repr

/-- `L'L` read (R83, R119). -/
def vecLen (ll : BitVec 2) : Option VecLen :=
  if ll = 0#2 then some .v128 else if ll = 1#2 then some .v256 else if ll = 2#2 then some .v512 else none

/-- The EVEX row within a triple (R114). -/
def pickLen (a b c : EvexForm → Instr) : VecLen → EvexForm → Instr
  | .v128 => a
  | .v256 => b
  | .v512 => c

/-- The EVEX triple of an opcode byte and W (R88, R89 rows 13 to 24): 1C and 1D with any W, 1E with W0, 1F with W1. -/
def evexTriple (op : Byte) (w : Bool) : Option (VecLen → EvexForm → Instr) :=
  if op = 0x1C#8 then some (pickLen .vpabsbEvex128 .vpabsbEvex256 .vpabsbEvex512)
  else if op = 0x1D#8 then some (pickLen .vpabswEvex128 .vpabswEvex256 .vpabswEvex512)
  else if op = 0x1E#8 ∧ w = false then some (pickLen .vpabsdEvex128 .vpabsdEvex256 .vpabsdEvex512)
  else if op = 0x1F#8 ∧ w = true then some (pickLen .vpabsqEvex128 .vpabsqEvex256 .vpabsqEvex512)
  else none

/-! ### The decoder -/

/-- What decoding answers: an instruction and the bytes after it; `#UD` for bytes that are no row of the table but
that a rule declares invalid (R119, R121); a refusal by name; or that the bytes end before the instruction does. -/
inductive Decoded where
  | instr (i : Instr) (rest : List Byte)
  | invalidOpcode
  | rejected (r : Reject)
  | truncated
  deriving DecidableEq, Repr

/-- A prefix that R121 faults stands before a VEX or EVEX prefix: LOCK, 66, F2, F3 or REX. -/
def Prefixes.strayBeforeVex (p : Prefixes) : Bool :=
  p.lock || p.opsize || p.repne || p.rep || p.rex.isSome

/-- Bytes after a VEX or EVEX escape that are no row: `#UD` when a stray prefix stands before the escape (R114 step 3,
R121), otherwise outside this spec (R123). -/
def notRow (p : Prefixes) : Decoded :=
  if p.strayBeforeVex then .invalidOpcode else .rejected .notInGroup

/-- The legacy class after the byte 0F (R114 step 3). F2 and F3 are refused (R124), and an MMX form with a REX bit that
R109 does not admit is. That these refusals come before the `#UD` of a LOCK prefix (R121) is the model's choice, the
spec not ordering R121 and R109, or R121 and R124 (assumption log 13). -/
def decodeLegacy (p : Prefixes) : List Byte → Decoded
  | [] => .truncated
  | [b] => if b = 0x38#8 then .truncated else .rejected .notInGroup
  | b :: op :: bs =>
    if b = 0x38#8 then
      match legacyRow op p.opsize with
      | none => .rejected .notInGroup
      | some row =>
        if p.repne || p.rep then .rejected .repBeforeLegacy
        else
          match takeOperands bs with
          | none => .truncated
          | some (reg, rm, rest) =>
            let f : LegacyForm := { pfx := p, reg := reg, rm := rm }
            if p.opsize || f.mmxRexOk then .instr (row f) rest else .rejected .mmxRexExtension
    else .rejected .notInGroup

/-- C4 and 62 are LES and BOUND in 32-bit mode unless the next byte's bits 7:6 are 11b (R95, R98). -/
def vexEscape (mode : Mode) (b : Byte) : Bool := mode == .mode64 || b.extractLsb' 6 2 == 3#2

/-- The VEX class after the byte C4 (R93, R95, R114 step 3). `vvvv` is the form's check, R117. -/
def decodeVex (mode : Mode) (p : Prefixes) : List Byte → Decoded
  | [] => .truncated
  | [v1] => if vexEscape mode v1 then .truncated else .rejected .notInGroup
  | [v1, _] => if vexEscape mode v1 then .truncated else .rejected .notInGroup
  | v1 :: v2 :: op :: bs =>
    if vexEscape mode v1 then
      if v1.extractLsb' 0 5 = 2#5 ∧ v2.extractLsb' 0 2 = 1#2 ∧ (mode = .mode64 ∨ v1.extractLsb' 5 3 = 7#3) then
        match vexRow op (v2.getLsbD 2) with
        | none => notRow p
        | some row =>
          match takeOperands bs with
          | none => .truncated
          | some (reg, rm, rest) =>
            .instr (row { pfx := p, rBar := v1.getLsbD 7, xBar := v1.getLsbD 6, bBar := v1.getLsbD 5,
                          w := v2.getLsbD 7, vvvv := v2.extractLsb' 3 4, reg := reg, rm := rm }) rest
      else notRow p
    else .rejected .notInGroup

/-- The EVEX class after the byte 62 (R97, R98, R114 step 3). `L'L = 11b` names no row and is `#UD` (R119); the other
reserved fields are the form's checks (R117, R118, R120, R122, R126). -/
def decodeEvex (mode : Mode) (p : Prefixes) : List Byte → Decoded
  | [] => .truncated
  | p0 :: p1 :: p2 :: op :: bs =>
    if vexEscape mode p0 then
      if p0.extractLsb' 0 2 = 2#2 ∧ p1.extractLsb' 0 2 = 1#2 ∧ (mode = .mode64 ∨ p0.extractLsb' 4 4 = 15#4) then
        match evexTriple op (p1.getLsbD 7) with
        | none => notRow p
        | some triple =>
          match takeOperands bs with
          | none => .truncated
          | some (reg, rm, rest) =>
            match vecLen (p2.extractLsb' 5 2) with
            | none => .invalidOpcode
            | some vl =>
              .instr (triple vl
                { pfx := p, rBar := p0.getLsbD 7, xBar := p0.getLsbD 6, bBar := p0.getLsbD 5, rHiBar := p0.getLsbD 4,
                  p0Fixed := p0.extractLsb' 2 2, w := p1.getLsbD 7, vvvv := p1.extractLsb' 3 4,
                  p1Fixed := p1.getLsbD 2, z := p2.getLsbD 7, b := p2.getLsbD 4, vHiBar := p2.getLsbD 3,
                  aaa := p2.extractLsb' 0 3, reg := reg, rm := rm }) rest
      else notRow p
    else .rejected .notInGroup
  | p0 :: _ => if vexEscape mode p0 then .truncated else .rejected .notInGroup

/-- R114 step 3: the byte after the prefixes selects the class. -/
def decodeOpcode (mode : Mode) (p : Prefixes) : List Byte → Decoded
  | [] => .truncated
  | b :: bs =>
    if b = 0x0F#8 then decodeLegacy p bs
    else if b = 0xC4#8 then decodeVex mode p bs
    else if b = 0x62#8 then decodeEvex mode p bs
    else .rejected .notInGroup

/-- Decoding (R114) of the bytes at the instruction pointer, first byte first. -/
def decode (mode : Mode) (bytes : List Byte) : Decoded :=
  match scanPrefixes mode {} bytes with
  | .truncated => .truncated
  | .reject r => .rejected r
  | .ok p rest =>
    match scanRex mode p rest with
    | .truncated => .truncated
    | .reject r => .rejected r
    | .ok p' rest' => decodeOpcode mode p' rest'

/-! ### The encoder -/

/-- The REX byte of its fields (R92). -/
def rexByte (r : Rex) : Byte :=
  4#4 ++ BitVec.ofBool r.w ++ BitVec.ofBool r.r ++ BitVec.ofBool r.x ++ BitVec.ofBool r.b

/-- A byte that stands or not. -/
def optByte (present : Bool) (b : Byte) : List Byte := if present then [b] else []

/-- The segment-override byte, if there is one. -/
def segBytes : Option Seg → List Byte
  | none => []
  | some s => [segCode s]

/-- The REX byte, if there is one. -/
def rexBytes : Option Rex → List Byte
  | none => []
  | some r => [rexByte r]

/-- The prefixes in one fixed order, REX last (R90, R92). -/
def encodePrefixes (p : Prefixes) : List Byte :=
  segBytes p.seg ++ (optByte p.addr32 0x67#8 ++ (optByte p.lock 0xF0#8 ++ (optByte p.opsize 0x66#8 ++
    (optByte p.repne 0xF2#8 ++ (optByte p.rep 0xF3#8 ++ rexBytes p.rex)))))

/-- A four-byte displacement, little-endian (R101). -/
def disp32Bytes (v : BitVec 32) : List Byte :=
  [v.extractLsb' 0 8, v.extractLsb' 8 8, v.extractLsb' 16 8, v.extractLsb' 24 8]

/-- The bytes of a displacement (R101). -/
def Disp.bytes : Disp → List Byte
  | .d0 => []
  | .d8 v => [v]
  | .d32 v => disp32Bytes v

/-- The `mod` field that announces a displacement (R101). -/
def Disp.modField : Disp → BitVec 2
  | .d0 => 0#2
  | .d8 _ => 1#2
  | .d32 _ => 2#2

/-- A ModR/M or SIB byte of its three fields (R99, R100). -/
def fieldByte (hi : BitVec 2) (mid lo : BitVec 3) : Byte := hi ++ mid ++ lo

/-- ModR/M, SIB and displacement of an operand pair (R99 to R104). -/
def encodeOperands (reg : BitVec 3) : RM → List Byte
  | .reg rm => [fieldByte 3#2 reg rm]
  | .mem (.base rm d) => fieldByte d.modField reg rm :: d.bytes
  | .mem (.dispOnly v) => fieldByte 0#2 reg 5#3 :: disp32Bytes v
  | .mem (.sib s i b d) => fieldByte d.modField reg 4#3 :: fieldByte s i b :: d.bytes
  | .mem (.sibNoBase s i v) => fieldByte 0#2 reg 4#3 :: fieldByte s i 5#3 :: disp32Bytes v

/-- A legacy form with opcode byte `op` (R80, R81). -/
def encodeLegacy (op : Byte) (f : LegacyForm) : List Byte :=
  encodePrefixes f.pfx ++ (0x0F#8 :: 0x38#8 :: op :: encodeOperands f.reg f.rm)

/-- The byte V1 (R93). -/
def VexForm.v1 (f : VexForm) : Byte :=
  BitVec.ofBool f.rBar ++ BitVec.ofBool f.xBar ++ BitVec.ofBool f.bBar ++ 2#5

/-- The byte V2 (R93). -/
def VexForm.v2 (f : VexForm) (l : Bool) : Byte :=
  BitVec.ofBool f.w ++ f.vvvv ++ BitVec.ofBool l ++ 1#2

/-- A VEX form (R80, R93). -/
def encodeVex (op : Byte) (l : Bool) (f : VexForm) : List Byte :=
  encodePrefixes f.pfx ++ (0xC4#8 :: f.v1 :: f.v2 l :: op :: encodeOperands f.reg f.rm)

/-- The byte P0 (R97). -/
def EvexForm.p0 (f : EvexForm) : Byte :=
  BitVec.ofBool f.rBar ++ BitVec.ofBool f.xBar ++ BitVec.ofBool f.bBar ++ BitVec.ofBool f.rHiBar ++ f.p0Fixed ++ 2#2

/-- The byte P1 (R97). -/
def EvexForm.p1 (f : EvexForm) : Byte :=
  BitVec.ofBool f.w ++ f.vvvv ++ BitVec.ofBool f.p1Fixed ++ 1#2

/-- The byte P2 (R97). -/
def EvexForm.p2 (f : EvexForm) (ll : BitVec 2) : Byte :=
  BitVec.ofBool f.z ++ ll ++ BitVec.ofBool f.b ++ BitVec.ofBool f.vHiBar ++ f.aaa

/-- An EVEX form (R80, R97). -/
def encodeEvex (op : Byte) (ll : BitVec 2) (f : EvexForm) : List Byte :=
  encodePrefixes f.pfx ++ (0x62#8 :: f.p0 :: f.p1 :: f.p2 ll :: op :: encodeOperands f.reg f.rm)

/-- The bytes of an instruction (R80, R89). -/
def encode : Instr → List Byte
  | .pabsbMm f       => encodeLegacy 0x1C#8 f
  | .pabsbXmm f      => encodeLegacy 0x1C#8 f
  | .pabswMm f       => encodeLegacy 0x1D#8 f
  | .pabswXmm f      => encodeLegacy 0x1D#8 f
  | .pabsdMm f       => encodeLegacy 0x1E#8 f
  | .pabsdXmm f      => encodeLegacy 0x1E#8 f
  | .vpabsbVex128 f  => encodeVex 0x1C#8 false f
  | .vpabswVex128 f  => encodeVex 0x1D#8 false f
  | .vpabsdVex128 f  => encodeVex 0x1E#8 false f
  | .vpabsbVex256 f  => encodeVex 0x1C#8 true f
  | .vpabswVex256 f  => encodeVex 0x1D#8 true f
  | .vpabsdVex256 f  => encodeVex 0x1E#8 true f
  | .vpabsbEvex128 f => encodeEvex 0x1C#8 0#2 f
  | .vpabsbEvex256 f => encodeEvex 0x1C#8 1#2 f
  | .vpabsbEvex512 f => encodeEvex 0x1C#8 2#2 f
  | .vpabswEvex128 f => encodeEvex 0x1D#8 0#2 f
  | .vpabswEvex256 f => encodeEvex 0x1D#8 1#2 f
  | .vpabswEvex512 f => encodeEvex 0x1D#8 2#2 f
  | .vpabsdEvex128 f => encodeEvex 0x1E#8 0#2 f
  | .vpabsdEvex256 f => encodeEvex 0x1E#8 1#2 f
  | .vpabsdEvex512 f => encodeEvex 0x1E#8 2#2 f
  | .vpabsqEvex128 f => encodeEvex 0x1F#8 0#2 f
  | .vpabsqEvex256 f => encodeEvex 0x1F#8 1#2 f
  | .vpabsqEvex512 f => encodeEvex 0x1F#8 2#2 f

/-! ### Length (R115) -/

/-- How many prefix bytes there are, the REX byte counted (R115). -/
def Prefixes.count (p : Prefixes) : Nat :=
  p.seg.isSome.toNat + p.addr32.toNat + p.lock.toNat + p.opsize.toNat + p.repne.toNat + p.rep.toNat +
    p.rex.isSome.toNat

/-- The bytes of a displacement: 0, 1 or 4 (R115). -/
def Disp.count : Disp → Nat
  | .d0 => 0
  | .d8 _ => 1
  | .d32 _ => 4

/-- The bytes of ModR/M, SIB and displacement (R115). -/
def RM.count : RM → Nat
  | .reg _ => 1
  | .mem (.base _ d) => 1 + d.count
  | .mem (.dispOnly _) => 1 + 4
  | .mem (.sib _ _ _ d) => 1 + 1 + d.count
  | .mem (.sibNoBase ..) => 1 + 1 + 4

/-- `len` of a legacy form: the core is `0F 38 op` (R115). -/
def LegacyForm.len (f : LegacyForm) : Nat := f.pfx.count + 3 + f.rm.count

/-- `len` of a VEX form: the core is `C4 V1 V2 op` (R115). -/
def VexForm.len (f : VexForm) : Nat := f.pfx.count + 4 + f.rm.count

/-- `len` of an EVEX form: the core is `62 P0 P1 P2 op` (R115). -/
def EvexForm.len (f : EvexForm) : Nat := f.pfx.count + 5 + f.rm.count

/-- `len` of an instruction (R115). -/
def Instr.len : Instr → Nat
  | .pabsbMm f | .pabsbXmm f | .pabswMm f | .pabswXmm f | .pabsdMm f | .pabsdXmm f => f.len
  | .vpabsbVex128 f | .vpabswVex128 f | .vpabsdVex128 f => f.len
  | .vpabsbVex256 f | .vpabswVex256 f | .vpabsdVex256 f => f.len
  | .vpabsbEvex128 f | .vpabsbEvex256 f | .vpabsbEvex512 f => f.len
  | .vpabswEvex128 f | .vpabswEvex256 f | .vpabswEvex512 f => f.len
  | .vpabsdEvex128 f | .vpabsdEvex256 f | .vpabsdEvex512 f => f.len
  | .vpabsqEvex128 f | .vpabsqEvex256 f | .vpabsqEvex512 f => f.len

/-! ### Words of the opcode table -/

/-- The longest instruction (R116). -/
def maxLen : Nat := 15

/-- The bytes of the number `w`, its least significant byte first, the bits from `nbits` on zero, up to the longest
instruction. -/
def wordBytes (nbits w : Nat) : List Byte :=
  (List.range maxLen).map fun i => BitVec.ofNat 8 ((w % 2 ^ nbits) >>> (8 * i))

/-- The instruction that the decoder reads, in 64-bit mode, from the bytes of a word of `spec/opcode_table.json`. -/
def decodeTableWord (nbits w : Nat) : Option Instr :=
  match decode .mode64 (wordBytes nbits w) with
  | .instr i _ => some i
  | _ => none

end Sys2Proof
end

