-- ==== Sys2Proof/Machine/State.lean ====
section
/-!
DEFINITION. The state of the machine (`10_state.md`, the tuple at its head, and the configuration of `00_scope.md` R8),
why a step can stop, and the state the model starts from. State is plain data.
-/
namespace Sys2Proof.Machine

/-- Linear memory (`10_state.md` R31): the bytes that differ from what an unlisted address reads as, addresses strictly
rising (`Memory.wf` in `Ops.lean`). -/
abbrev Memory := List Host.Cell

/-- The machine (`10_state.md`). No flag, MXCSR or x87 register: R28, R24. -/
structure State where
  /-- The vector registers; `xmm<i>` and `ymm<i>` are the low bits of `zmm[i]` (R20). -/
  zmm    : Vector (BitVec 512) 32
  /-- The MMX registers (R23). -/
  mm     : Vector (BitVec 64) 8
  /-- The opmask registers (R25). -/
  k      : Vector (BitVec 64) 8
  /-- The general registers, RAX first (R26). -/
  gpr    : Vector (BitVec 64) 16
  /-- The instruction pointer (R27). -/
  rip    : BitVec 64
  /-- `segbase[FS]` (R30). -/
  fsBase : BitVec 64
  /-- `segbase[GS]` (R30). -/
  gsBase : BitVec 64
  /-- Memory (R31). -/
  mem    : Memory
  /-- The configuration, which no rule writes (`00_scope.md` R8, assumption log 1). -/
  cfg    : Config
  deriving DecidableEq, Repr

/-- The faults of `60_exceptions.md` R211. A fault is a terminal outcome that changes no state (R243, R244). Each is
safe: the model stops where the chip goes on in a handler, and no claim is proved of a faulted run. -/
inductive Fault where
  /-- `#UD`, invalid opcode: the checks of R218 to R222 and bytes that R119 or R121 declares invalid. Safe. -/
  | ud
  /-- `#NM`, device not available: every form with CR0.TS set (R223). Safe. -/
  | nm
  /-- `#SS(0)`: a memory operand through SS that is out of range or not canonical (`20_memory.md` R63). Safe. -/
  | ss0
  /-- `#GP(0)`: another memory operand out of range, a misaligned legacy xmm operand (R57), a fetch at an address that
  is not canonical (R68), an instruction longer than 15 bytes (`30_encoding.md` R116). Safe. -/
  | gp0
  /-- `#PF(code)`: `Access` answers a page fault, for a data read or a fetch (`20_memory.md` R62, R68). The 32 bits of
  the code are the model's choice (assumption log 2, DESIGN CHOICE). Safe. -/
  | pf (code : BitVec 32)
  /-- `#MF`: an MMX form while an x87 exception is pending (R224). Safe. -/
  | mf
  /-- `#AC(0)`: the alignment check, by `acPolicy` (`20_memory.md` R58). Safe. -/
  | ac0
  deriving DecidableEq, Repr

/-- The vector number of a fault (R211). -/
def Fault.vector : Fault → Nat
  | .ud   => 6
  | .nm   => 7
  | .ss0  => 12
  | .gp0  => 13
  | .pf _ => 14
  | .mf   => 16
  | .ac0  => 17

/-- The error code a fault delivers (R211), in 32 bits (assumption log 2, DESIGN CHOICE). -/
def Fault.errorCode : Fault → Option (BitVec 32)
  | .ud   => none
  | .nm   => none
  | .ss0  => some 0
  | .gp0  => some 0
  | .pf c => some c
  | .mf   => none
  | .ac0  => some 0

/-- Why the machine gives bytes no meaning. Every refusal is safe: no claim is proved of a run that reaches one. -/
inductive Refusal where
  /-- `exec`: an instruction whose meaning is not written yet. No arm of this model answers it. Safe. -/
  | notModelled (mnemonic : String)
  /-- `step`: the decoder refuses the bytes, by name (`00_scope.md` R15, `30_encoding.md` R123, R124). Safe. -/
  | rejected (why : Reject)
  /-- `step`: a byte of the instruction lies at or above the top of the address space (`10_state.md` R27). Safe. -/
  | pastTop
  /-- `step`: a debug facility is armed, and the spec models none (`60_exceptions.md` R252, assumption log 20). Safe. -/
  | debugArmed
  /-- `exec`: a data read that no fault stops reaches an address that is not ordinary memory, and the spec gives no
  device (`20_memory.md` R60, R61, assumption log 21). Safe. -/
  | deviceRead
  deriving DecidableEq, Repr

/-- Why a data read gives no value: a fault, or a refusal. -/
inductive Stop where
  /-- A fault of R55. -/
  | fault (e : Fault)
  /-- A read that the model gives no meaning. -/
  | refused (r : Refusal)
  deriving DecidableEq, Repr

/-- The configuration the model starts from: 64-bit mode, all six features, `OsEnabled` of `70_reset_and_hazards.md`
R264 (as the table of `10_state.md` R33 says), no page fault, alignment checking off, no debug facility armed, no
device (assumption log 6, DESIGN CHOICE). -/
def resetConfig : Config :=
  { mode := .mode64
    feat := { ssse3 := true, avx := true, avx2 := true, avx512f := true, avx512bw := true, avx512vl := true }
    env := { cr0Em := false, cr0Ts := false, cr0Am := false, cr4Osfxsr := true, cr4Osxsave := true, xcr0Sse := true,
             xcr0Avx := true, xcr0Opmask := true, xcr0ZmmHi256 := true, xcr0Hi16Zmm := true, eflagsAc := false,
             cpl := 0, x87Pending := false }
    access := []
    law := .w48
    acPolicy := .mmxOnly
    suppress := false
    endAddr := 0
    debugArmed := false
    devices := [] }

/-- The state the model starts from. The spec states no reset value (R33, R260, R261): the register values are the
family's that R33 quotes for orientation, RDX apart (assumption log 4, 5, PRESUMED and DESIGN CHOICE); memory lists
nothing (log 7). -/
def State.reset : State :=
  { zmm := Vector.replicate 32 0
    mm := Vector.replicate 8 0
    k := Vector.replicate 8 0
    gpr := Vector.replicate 16 0
    rip := 0xFFFFFFF0#64
    fsBase := 0
    gsBase := 0
    mem := []
    cfg := resetConfig }

end Sys2Proof.Machine
end

