-- ==== Sys2Proof/Machine/Arith.lean ====
section
/-!
DEFINITION. The arithmetic of the 24 forms: `ABS_w`, `PackedAbs` and `MaskedAbs` (`40_pabs_legacy.md` R140, R141,
`42_vpabs_evex.md` R183), over values made of lanes.
-/
namespace Sys2Proof.Machine

/-- Lane `j` of width `w` of a value (`00_scope.md` R15). -/
def lane {L : Nat} (w j : Nat) (v : BitVec L) : BitVec w := v.extractLsb' (w * j) w

/-- The value of `n` lanes of width `w`, lane `j` being `f j`; bits above the lanes are 0. -/
def packLanes (w L : Nat) (f : Nat → BitVec w) : Nat → BitVec L
  | 0 => 0
  | n + 1 => packLanes w L f n ||| ((f n).setWidth L <<< (w * n))

/-- `ABS_w(v)` (R140): `v` if its sign bit is 0, else `2^w - unsigned_w(v)` cut to `w` bits. -/
def absW (w : Nat) (v : BitVec w) : BitVec w :=
  if v.msb then BitVec.ofNat w (2 ^ w - v.toNat) else v

/-- `PackedAbs(w, L, src)` (R141). -/
def packedAbs (w L : Nat) (src : BitVec L) : BitVec L :=
  packLanes w L (fun j => absW w (lane w j src)) (L / w)

/-- One element of `MaskedAbs` (R183): computed, kept (merging) or zero (zeroing). -/
def maskedLane (w : Nat) (src old : BitVec w) (m z : Bool) : BitVec w :=
  if m then absW w src else if z then 0 else old

/-- `MaskedAbs(w, VL, SRCV, M, z, OLD)` (R183); bit `j` of `mask` is `M[j]`. -/
def maskedAbs (w VL : Nat) (src : BitVec VL) (mask : BitVec 64) (z : Bool) (old : BitVec VL) : BitVec VL :=
  packLanes w VL (fun j => maskedLane w (lane w j src) (lane w j old) (mask.getLsbD j) z) (VL / w)

end Sys2Proof.Machine
end

