-- ==== Sys2Proof/Machine/Flags.lean ====
section
/-!
DEFINITION. Flags. No form in scope writes a flag (`10_state.md` R28, `60_exceptions.md` R213), so there is no flag
computation. The one flag that is read is EFLAGS.AC, by the alignment check (`20_memory.md` R58), defined here.
-/
namespace Sys2Proof.Machine

/-- What the alignment check asks of an access: an MMX operand, a broadcast element, or another operand (R58). -/
inductive AcShape where
  | mmx | broadcast | vector
  deriving DecidableEq, Repr

/-- Alignment checking is on: CR0.AM and EFLAGS.AC and CPL = 3 (R58). -/
def alignmentCheckingOn (e : Env) : Bool := e.cr0Am && e.eflagsAc && e.cpl == 3#2

/-- `AlignCheck(env, lin, form)` for an operand of `n` bytes (R58): under each policy, which misaligned operands raise
`#AC(0)`. -/
def alignCheck (c : Config) (shape : AcShape) (lin n : Nat) : Bool :=
  alignmentCheckingOn c.env &&
  match c.acPolicy with
  | .never     => false
  | .mmxOnly   => shape == .mmx && lin % 8 != 0
  | .smallOnly => (shape == .mmx || shape == .broadcast) && lin % n != 0
  | .always    => lin % n != 0

end Sys2Proof.Machine
end

