-- ==== Sys2Proof/Machine/Ops.lean ====
section
/-!
DEFINITION. The named operations over memory and registers (`10_state.md`, `20_memory.md`), and raising a fault
(`60_exceptions.md` R243, R244). Byte order is decided in one place, `loadLE`.
-/
namespace Sys2Proof.Machine

/-! ### Memory -/

/-- What an unlisted address reads as (assumption log 7, DESIGN CHOICE). -/
def unlistedByte : Byte := 0

/-- The byte at a linear address (`10_state.md` R31). -/
def readByte : Memory → Nat → Byte
  | [], _ => unlistedByte
  | (b, v) :: m, a => if a = b then v else readByte m a

/-- Put a byte at a linear address, keeping the canonical form. No form in scope writes memory (`20_memory.md` R60):
this is the launch's, for placing a program text (`70_reset_and_hazards.md` R262). -/
def writeByte : Memory → Nat → Byte → Memory
  | [], a, v => if v = unlistedByte then [] else [(a, v)]
  | (b, w) :: m, a, v =>
    if a < b then (if v = unlistedByte then (b, w) :: m else (a, v) :: (b, w) :: m)
    else if a = b then (if v = unlistedByte then m else (a, v) :: m)
    else (b, w) :: writeByte m a v

/-- Put bytes at rising linear addresses, which wrap at `2^64`. -/
def writeBytes : Memory → Nat → List Byte → Memory
  | m, _, [] => m
  | m, a, v :: vs => writeBytes (writeByte m (a % 2 ^ 64) v) (a + 1) vs

/-- The canonical form of memory from address `lo` on: addresses strictly rising and below `2^64`, no entry equal to
what an unlisted address reads as. -/
def wfFrom (lo : Nat) : Memory → Bool
  | [] => true
  | (a, v) :: m => decide (lo ≤ a) && decide (a < 2 ^ 64) && v != unlistedByte && wfFrom (a + 1) m

/-- The canonical form of memory. -/
def Memory.wf (m : Memory) : Bool := wfFrom 0 m

/-- The `L`-bit value of `L / 8` bytes, the byte at the lowest address least significant (`20_memory.md` R51, R52). -/
def loadLE (L : Nat) (m : Memory) (lin : Nat) : BitVec L :=
  packLanes 8 L (fun i => readByte m (lin + i)) (L / 8)

/-! ### Registers -/

/-- `zmm[i]` (R20). -/
def State.zmmReg (s : State) (i : BitVec 5) : BitVec 512 := s.zmm[i.toNat]'(i.isLt)

/-- `mm[i]` (R23). -/
def State.mmReg (s : State) (i : BitVec 3) : BitVec 64 := s.mm[i.toNat]'(i.isLt)

/-- `k[i]` (R25). -/
def State.kReg (s : State) (i : BitVec 3) : BitVec 64 := s.k[i.toNat]'(i.isLt)

/-- `gpr[i]` (R26). -/
def State.gprReg (s : State) (i : BitVec 4) : BitVec 64 := s.gpr[i.toNat]'(i.isLt)

/-- `zmm[i] <- v`. -/
def State.setZmm (s : State) (i : BitVec 5) (v : BitVec 512) : State :=
  { s with zmm := s.zmm.set i.toNat v i.isLt }

/-- `mm[i] <- v`. -/
def State.setMm (s : State) (i : BitVec 3) (v : BitVec 64) : State :=
  { s with mm := s.mm.set i.toNat v i.isLt }

/-- `rip <- rip + len` (R27). -/
def State.advance (s : State) (len : Nat) : State :=
  { s with rip := s.rip + BitVec.ofNat 64 len }

/-! ### Raising a fault -/

/-- `raise`: the fault is the outcome of the step and no state changes (`60_exceptions.md` R243, R244; `00_scope.md`
R6 b: no handler is entered, and there is no return from one, R245). -/
def raise (e : Fault) : Host.Outcome State Fault Refusal := .fault e

/-- The outcome of an instruction whose source a data read does not give. -/
def stopOutcome : Stop → Host.Outcome State Fault Refusal
  | .fault e   => raise e
  | .refused r => .refused r

/-! ### Address checks -/

/-- A linear address is canonical: bits 63 down to LAW-1 are all equal (R63). An address from `2^64` on is not a linear
address (assumption log 11). -/
def canonical (law : LinearWidth) (a : Nat) : Bool :=
  decide (a < 2 ^ (law.bits - 1)) || (decide (2 ^ 64 - 2 ^ (law.bits - 1) ≤ a) && decide (a < 2 ^ 64))

/-- The check of the range `[lin, lin + n - 1]` (R63): canonical in 64-bit mode, not past `2^32 - 1` in 32-bit mode. -/
def rangeOk (c : Config) (lin n : Nat) : Bool :=
  match c.mode with
  | .mode64 => (List.range n).all fun i => canonical c.law (lin + i)
  | .mode32 => decide (lin + n ≤ 2 ^ 32)

/-- The fault of a range violation: `#SS(0)` through SS, `#GP(0)` otherwise (R63). -/
def rangeFault (seg : Seg) : Fault := if seg = .ss then .ss0 else .gp0

/-- `Access(env, lin, n, kind)`: `none` is `Ok`, `some code` is `PageFault(code)` (R62, assumption log 2). Of `env` it
uses the privilege level (`10_state.md` R29). -/
def accessCheck (c : Config) (kind : AccessKind) (lin n : Nat) : Option (BitVec 32) :=
  (c.access.find? fun e => e.covers c.env kind lin n).map AccessFault.code

/-- The `n` bytes from `lin` on are ordinary memory, whose reads are idempotent and free of side effects (R60). -/
def ordinary (c : Config) (lin n : Nat) : Bool := c.devices.all fun d => d.avoids lin n

/-- `Linear(seg, ea)` (R63): FS and GS have a base in 64-bit mode, every other base is 0. -/
def linear (s : State) (seg : Seg) (ea : BitVec 64) : BitVec 64 :=
  match s.cfg.mode, seg with
  | .mode64, .fs => s.fsBase + ea
  | .mode64, .gs => s.gsBase + ea
  | _, _ => ea

/-! ### The read primitive -/

/-- `MemRead` at a linear address (R55): range (`#SS(0)`, `#GP(0)`), the 16-byte alignment of the forms that require it
(`#GP(0)`, R57), `Access` (`#PF`), the alignment check (`#AC(0)`, R58), and then the `L / 8` bytes. A read that
no check stops is refused where it is not of ordinary memory (R60, assumption log 21). -/
def memRead (s : State) (seg : Seg) (lin L : Nat) (align16 : Bool) (shape : AcShape) : Except Stop (BitVec L) :=
  if !rangeOk s.cfg lin (L / 8) then .error (.fault (rangeFault seg))
  else if align16 && lin % 16 != 0 then .error (.fault .gp0)
  else
    match accessCheck s.cfg .dataRead lin (L / 8) with
    | some code => .error (.fault (.pf code))
    | none =>
      if alignCheck s.cfg shape lin (L / 8) then .error (.fault .ac0)
      else if !ordinary s.cfg lin (L / 8) then .error (.refused .deviceRead)
      else .ok (loadLE L s.mem lin)

/-- The elements, of `n`, whose mask bit is 1. -/
def activeElements (mask : BitVec 64) (n : Nat) : List Nat := (List.range n).filter fun j => mask.getLsbD j

/-- `MemRead` of a vector of `w`-bit elements with fault suppression (`60_exceptions.md` R236, `suppress = true`): the
checks are made on the elements whose mask bit is 1, element by element, and the bytes of the others are neither
checked nor read. The alignment check is the whole operand's (assumption log 16). -/
def memReadMasked (s : State) (seg : Seg) (lin w L : Nat) (mask : BitVec 64) : Except Stop (BitVec L) :=
  let active := activeElements mask (L / w)
  if active.isEmpty then .ok 0
  else if active.any fun j => !rangeOk s.cfg (lin + j * (w / 8)) (w / 8) then .error (.fault (rangeFault seg))
  else
    match active.findSome? fun j => accessCheck s.cfg .dataRead (lin + j * (w / 8)) (w / 8) with
    | some code => .error (.fault (.pf code))
    | none =>
      if alignCheck s.cfg .vector lin (L / 8) then .error (.fault .ac0)
      else if active.any fun j => !ordinary s.cfg (lin + j * (w / 8)) (w / 8) then .error (.refused .deviceRead)
      else .ok (packLanes w L (fun j => if mask.getLsbD j then loadLE w s.mem (lin + j * (w / 8)) else 0) (L / w))

end Sys2Proof.Machine
end

