-- ==== Sys2Proof/Machine/Checks.lean ====
section
/-!
DEFINITION. The checks each class of form makes before it reads its source (`60_exceptions.md` R218 to R224), in the
order of R238: every `#UD` condition, then `#NM`, then `#MF`. Each answers the first fault, or none.
-/
namespace Sys2Proof.Machine

/-- Some CPUID flag of the row is false (R219). -/
def featureMissing (c : Config) (fs : List Feature) : Bool := fs.any fun t => !c.feat.has t

/-- `#UD` if `ud`, else `#NM` if CR0.TS is set (R223, R238). -/
def udThenNm (c : Config) (ud : Bool) : Option Fault :=
  if ud then some .ud else if c.env.cr0Ts then some .nm else none

/-- The `#UD` conditions of the MMX forms (R218). -/
def mmxUd (c : Config) (f : LegacyForm) : Bool :=
  f.pfx.lock || featureMissing c [.ssse3] || c.env.cr0Em

/-- The checks of the MMX forms (R218): `#UD`, `#NM`, `#MF`. -/
def mmxChecks (c : Config) (f : LegacyForm) : Option Fault :=
  match udThenNm c (mmxUd c f) with
  | some e => some e
  | none   => if c.env.x87Pending then some .mf else none

/-- The `#UD` conditions of the legacy xmm forms (R220). -/
def xmmUd (c : Config) (f : LegacyForm) : Bool :=
  f.pfx.lock || featureMissing c [.ssse3] || c.env.cr0Em || !c.env.cr4Osfxsr

/-- The checks of the legacy xmm forms (R220). -/
def xmmChecks (c : Config) (f : LegacyForm) : Option Fault := udThenNm c (xmmUd c f)

/-- The `#UD` conditions of the VEX forms (R221, R212). -/
def vexUd (c : Config) (feature : Feature) (f : VexForm) : Bool :=
  f.pfx.strayBeforeVex || f.vvvv != 15#4 || featureMissing c [feature] || !c.env.cr4Osxsave ||
    !(c.env.xcr0Sse && c.env.xcr0Avx)

/-- The checks of the VEX forms (R221). -/
def vexChecks (c : Config) (feature : Feature) (f : VexForm) : Option Fault := udThenNm c (vexUd c feature f)

/-- The source is a register, `mod = 11b` (R102). -/
def isRegSource : RM → Bool
  | .reg _ => true
  | .mem _ => false

/-- The reserved fields of an EVEX form have a reserved value (R222): a stray prefix (R121), the fixed bits (R126),
`vvvv` (R212), V' (R118), zeroing without a mask (R122), and `EVEX.b` with a register source or on a form without
broadcast (R120). `L'L = 11b` (R119) names no form and faults in the decoder. -/
def evexReserved (bcst : Bool) (f : EvexForm) : Bool :=
  f.pfx.strayBeforeVex || f.p0Fixed != 0#2 || !f.p1Fixed || f.vvvv != 15#4 || !f.vHiBar ||
    (f.z && f.aaa == 0#3) || (f.b && (isRegSource f.rm || !bcst))

/-- The operating system has enabled the EVEX state (R217, R222). -/
def evexEnabled (e : Env) : Bool :=
  e.cr4Osxsave && e.xcr0Sse && e.xcr0Avx && e.xcr0Opmask && e.xcr0ZmmHi256 && e.xcr0Hi16Zmm

/-- The `#UD` conditions of the EVEX forms (R222); `bcst` says whether the form has a broadcast. -/
def evexUd (c : Config) (bcst : Bool) (features : List Feature) (f : EvexForm) : Bool :=
  evexReserved bcst f || featureMissing c features || !evexEnabled c.env

/-- The checks of the EVEX forms (R222). -/
def evexChecks (c : Config) (bcst : Bool) (features : List Feature) (f : EvexForm) : Option Fault :=
  udThenNm c (evexUd c bcst features f)

end Sys2Proof.Machine
end

