-- ==== Sys2Proof/Machine/Operands.lean ====
section
/-!
DEFINITION. Operands (`30_encoding.md` R102 to R112): register numbers, effective address, segment, displacement
scale, and the source value of each encoding class.
-/
namespace Sys2Proof.Machine

/-! ### Addresses -/

/-- The number of a general register: an extension bit and three bits of ModR/M or SIB (R103, R104). -/
def gprIndex (ext : Bool) (n : BitVec 3) : BitVec 4 := BitVec.ofBool ext ++ n

/-- The base register of an addressing form, `B` the extension bit (R103, R104). -/
def baseReg (b : Bool) : MemRef → Option (BitVec 4)
  | .base rm _    => some (gprIndex b rm)
  | .dispOnly _   => none
  | .sib _ _ r _  => some (gprIndex b r)
  | .sibNoBase .. => none

/-- The index register that a SIB byte names, `X` the extension bit; none for `X‖index = 0100b` (R104). -/
def sibIndex (x : Bool) (i : BitVec 3) : Option (BitVec 4) :=
  if gprIndex x i = 4#4 then none else some (gprIndex x i)

/-- The index register of an addressing form (R104). -/
def indexReg (x : Bool) : MemRef → Option (BitVec 4)
  | .base ..         => none
  | .dispOnly _      => none
  | .sib _ i _ _     => sibIndex x i
  | .sibNoBase _ i _ => sibIndex x i

/-- The `scale` field (R104). -/
def scaleOf : MemRef → BitVec 2
  | .base ..         => 0
  | .dispOnly _      => 0
  | .sib sc _ _ _    => sc
  | .sibNoBase sc .. => sc

/-- A displacement sign-extended to 64 bits, a `disp8` multiplied by `n` (R101, R106, R112). -/
def dispValue (n : Nat) : Disp → BitVec 64
  | .d0    => 0
  | .d8 v  => v.signExtend 64 * BitVec.ofNat 64 n
  | .d32 v => v.signExtend 64

/-- The displacement of an addressing form (R101, R103). -/
def dispOf (n : Nat) : MemRef → BitVec 64
  | .base _ d        => dispValue n d
  | .dispOnly v      => v.signExtend 64
  | .sib _ _ _ d     => dispValue n d
  | .sibNoBase _ _ v => v.signExtend 64

/-- The address size `AS` in bits (R105). -/
def addressSize (mode : Mode) (p : Prefixes) : Nat :=
  match mode with
  | .mode32 => 32
  | .mode64 => if p.addr32 then 32 else 64

/-- `trunc_AS`, zero-extended to 64 bits (R106). -/
def truncAS (as : Nat) (v : BitVec 64) : BitVec 64 := (v.setWidth as).setWidth 64

/-- The value of a register that may be absent, cut to the address size (R106). -/
def addrReg (s : State) (as : Nat) : Option (BitVec 4) → BitVec 64
  | none   => 0
  | some r => truncAS as (s.gprReg r)

/-- The effective address (R106): relative to the next instruction for the RIP-relative form of 64-bit mode, else
base plus scaled index plus displacement. `n` is the displacement scale (R112), `len` the length of the instruction. -/
def effectiveAddress (s : State) (p : Prefixes) (x b : Bool) (len n : Nat) (m : MemRef) : BitVec 64 :=
  let as := addressSize s.cfg.mode p
  match s.cfg.mode, m with
  | .mode64, .dispOnly d => truncAS as ((s.rip + BitVec.ofNat 64 len) + d.signExtend 64)
  | _, _ =>
    truncAS as (addrReg s as (baseReg b m) + addrReg s as (indexReg x m) <<< (scaleOf m).toNat + dispOf n m)

/-- The segment of a memory operand (R107): an override, else SS for the base registers RSP and RBP, else DS. -/
def segmentOf (p : Prefixes) (b : Bool) (m : MemRef) : Seg :=
  match p.seg with
  | some s => s
  | none   => if baseReg b m = some 4#4 ∨ baseReg b m = some 5#4 then .ss else .ds

/-- The linear address of a memory operand (R106, R107, `20_memory.md` R63). -/
def operandAddress (s : State) (p : Prefixes) (x b : Bool) (len n : Nat) (m : MemRef) : Nat :=
  (linear s (segmentOf p b m) (effectiveAddress s p x b len n m)).toNat

/-! ### The legacy class -/

/-- REX.R, 0 without a REX byte (R92). -/
def legacyR (f : LegacyForm) : Bool := match f.pfx.rex with | some r => r.r | none => false

/-- REX.X, 0 without a REX byte (R92). -/
def legacyX (f : LegacyForm) : Bool := match f.pfx.rex with | some r => r.x | none => false

/-- REX.B, 0 without a REX byte (R92). -/
def legacyB (f : LegacyForm) : Bool := match f.pfx.rex with | some r => r.b | none => false

/-- The destination index of a legacy xmm form, `REX.R ‖ reg` (R108). -/
def legacyDst (f : LegacyForm) : BitVec 5 := 0#1 ++ BitVec.ofBool (legacyR f) ++ f.reg

/-- The source index of a legacy xmm form, `REX.B ‖ rm` (R108). -/
def legacySrc (f : LegacyForm) (rm : BitVec 3) : BitVec 5 := 0#1 ++ BitVec.ofBool (legacyB f) ++ rm

/-- The linear address of the memory operand of a legacy form; `disp8` is not scaled (R112). -/
def legacyAddress (s : State) (f : LegacyForm) (m : MemRef) : Nat :=
  operandAddress s f.pfx (legacyX f) (legacyB f) f.len 1 m

/-- The source of an MMX form: `mm[r/m]` or 8 bytes, no alignment required (R102, R109, `20_memory.md` R56). -/
def mmxSource (s : State) (f : LegacyForm) : Except Stop (BitVec 64) :=
  match f.rm with
  | .reg rm => .ok (s.mmReg rm)
  | .mem m  => memRead s (segmentOf f.pfx (legacyB f) m) (legacyAddress s f m) 64 false .mmx

/-- The source of a legacy xmm form: 128 bits of a register, or 16 bytes that must be aligned (R102, R108, R57). -/
def xmmSource (s : State) (f : LegacyForm) : Except Stop (BitVec 128) :=
  match f.rm with
  | .reg rm => .ok ((s.zmmReg (legacySrc f rm)).setWidth 128)
  | .mem m  => memRead s (segmentOf f.pfx (legacyB f) m) (legacyAddress s f m) 128 true .vector

/-! ### The VEX class -/

/-- The destination index of a VEX form, `(NOT R̄) ‖ reg` (R108). -/
def vexDst (f : VexForm) : BitVec 5 := 0#1 ++ BitVec.ofBool (!f.rBar) ++ f.reg

/-- The source index of a VEX form, `(NOT B̄) ‖ rm` (R108). -/
def vexSrc (f : VexForm) (rm : BitVec 3) : BitVec 5 := 0#1 ++ BitVec.ofBool (!f.bBar) ++ rm

/-- The linear address of the memory operand of a VEX form; `disp8` is not scaled (R112). -/
def vexAddress (s : State) (f : VexForm) (m : MemRef) : Nat :=
  operandAddress s f.pfx (!f.xBar) (!f.bBar) f.len 1 m

/-- The source of a VEX form of length `VL`: bits of a register, or `VL / 8` bytes, no alignment (R102, R108, R56). -/
def vexSource (VL : Nat) (s : State) (f : VexForm) : Except Stop (BitVec VL) :=
  match f.rm with
  | .reg rm => .ok ((s.zmmReg (vexSrc f rm)).setWidth VL)
  | .mem m  => memRead s (segmentOf f.pfx (!f.bBar) m) (vexAddress s f m) VL false .vector

/-! ### The EVEX class -/

/-- The destination index of an EVEX form, `(NOT R̄') ‖ (NOT R̄) ‖ reg` (R108). -/
def evexDst (f : EvexForm) : BitVec 5 := BitVec.ofBool (!f.rHiBar) ++ BitVec.ofBool (!f.rBar) ++ f.reg

/-- The source index of an EVEX form, `(NOT X̄) ‖ (NOT B̄) ‖ rm` (R108). -/
def evexSrc (f : EvexForm) (rm : BitVec 3) : BitVec 5 := BitVec.ofBool (!f.xBar) ++ BitVec.ofBool (!f.bBar) ++ rm

/-- The scale `N` of an 8-bit displacement (R112): `VL / 8`, or the element's bytes when broadcasting. -/
def dispScale (w VL : Nat) (b : Bool) : Nat := if b then w / 8 else VL / 8

/-- The linear address of the memory operand of an EVEX form (R106, R112). -/
def evexAddress (w VL : Nat) (s : State) (f : EvexForm) (m : MemRef) : Nat :=
  operandAddress s f.pfx (!f.xBar) (!f.bBar) f.len (dispScale w VL f.b) m

/-- The write-mask `M` (`42_vpabs_evex.md` R181): all ones for `aaa = 000b`, else `k[aaa]`. -/
def writeMask (s : State) (f : EvexForm) : BitVec 64 :=
  if f.aaa = 0#3 then BitVec.allOnes 64 else s.kReg f.aaa

/-- `KL` copies of one element (R182). -/
def broadcast (w VL : Nat) (e : BitVec w) : BitVec VL := packLanes w VL (fun _ => e) (VL / w)

/-- The memory source of an EVEX form (R182): `VL / 8` bytes, or one element broadcast. With `suppress` the checks
concern the elements whose mask bit is 1 (`60_exceptions.md` R236). -/
def evexMemSource (w VL : Nat) (s : State) (f : EvexForm) (m : MemRef) : Except Stop (BitVec VL) :=
  let seg := segmentOf f.pfx (!f.bBar) m
  let lin := evexAddress w VL s f m
  if f.b then
    if s.cfg.suppress && (activeElements (writeMask s f) (VL / w)).isEmpty then .ok 0
    else (memRead s seg lin w false .broadcast).map (broadcast w VL)
  else if s.cfg.suppress && f.aaa != 0#3 then memReadMasked s seg lin w VL (writeMask s f)
  else memRead s seg lin VL false .vector

/-- The source vector `SRCV` of an EVEX form (R182). -/
def evexSource (w VL : Nat) (s : State) (f : EvexForm) : Except Stop (BitVec VL) :=
  match f.rm with
  | .reg rm => .ok ((s.zmmReg (evexSrc f rm)).setWidth VL)
  | .mem m  => evexMemSource w VL s f m

end Sys2Proof.Machine
end

