-- ==== Sys2Proof/Machine/Evex.lean ====
section
/-!
DEFINITION. The twelve EVEX-encoded forms (`42_vpabs_evex.md` R180 to R196).
-/
namespace Sys2Proof.Machine

/-- What an EVEX form of element width `w` and length `VL` does (R184): the checks of R222, the source vector (R182),
then `zmm[d][VL-1:0] <- MaskedAbs(w, VL, SRCV, M, z, OLD)`, `zmm[d][MAXVL-1:VL] <- 0` whatever the mask is, and
`rip <- rip + len`. `bcst` says whether the form has an embedded broadcast. -/
def execEvex (w VL : Nat) (bcst : Bool) (features : List Feature) (f : EvexForm) (s : State) :
    Host.Outcome State Fault Refusal :=
  match evexChecks s.cfg bcst features f with
  | some e => raise e
  | none =>
    match evexSource w VL s f with
    | .error e => stopOutcome e
    | .ok src  =>
      .next ((s.setZmm (evexDst f)
        ((maskedAbs w VL src (writeMask s f) f.z ((s.zmmReg (evexDst f)).setWidth VL)).setWidth 512)).advance f.len)

/-- VPABSB xmm1, xmm2/m128, EVEX, with write-mask and zeroing (R185). -/
def execVpabsbEvex128 (f : EvexForm) (s : State) : Host.Outcome State Fault Refusal :=
  execEvex 8 128 false [.avx512vl, .avx512bw] f s

/-- VPABSB ymm1, ymm2/m256, EVEX, with write-mask and zeroing (R186). -/
def execVpabsbEvex256 (f : EvexForm) (s : State) : Host.Outcome State Fault Refusal :=
  execEvex 8 256 false [.avx512vl, .avx512bw] f s

/-- VPABSB zmm1, zmm2/m512, EVEX, with write-mask and zeroing (R187). -/
def execVpabsbEvex512 (f : EvexForm) (s : State) : Host.Outcome State Fault Refusal :=
  execEvex 8 512 false [.avx512bw] f s

/-- VPABSW xmm1, xmm2/m128, EVEX, with write-mask and zeroing (R188). -/
def execVpabswEvex128 (f : EvexForm) (s : State) : Host.Outcome State Fault Refusal :=
  execEvex 16 128 false [.avx512vl, .avx512bw] f s

/-- VPABSW ymm1, ymm2/m256, EVEX, with write-mask and zeroing (R189). -/
def execVpabswEvex256 (f : EvexForm) (s : State) : Host.Outcome State Fault Refusal :=
  execEvex 16 256 false [.avx512vl, .avx512bw] f s

/-- VPABSW zmm1, zmm2/m512, EVEX, with write-mask and zeroing (R190). -/
def execVpabswEvex512 (f : EvexForm) (s : State) : Host.Outcome State Fault Refusal :=
  execEvex 16 512 false [.avx512bw] f s

/-- VPABSD xmm1, xmm2/m128/m32bcst, EVEX, with write-mask and zeroing (R191). -/
def execVpabsdEvex128 (f : EvexForm) (s : State) : Host.Outcome State Fault Refusal :=
  execEvex 32 128 true [.avx512vl, .avx512f] f s

/-- VPABSD ymm1, ymm2/m256/m32bcst, EVEX, with write-mask and zeroing (R192). -/
def execVpabsdEvex256 (f : EvexForm) (s : State) : Host.Outcome State Fault Refusal :=
  execEvex 32 256 true [.avx512vl, .avx512f] f s

/-- VPABSD zmm1, zmm2/m512/m32bcst, EVEX, with write-mask and zeroing (R193). -/
def execVpabsdEvex512 (f : EvexForm) (s : State) : Host.Outcome State Fault Refusal :=
  execEvex 32 512 true [.avx512f] f s

/-- VPABSQ xmm1, xmm2/m128/m64bcst, EVEX, with write-mask and zeroing (R194). -/
def execVpabsqEvex128 (f : EvexForm) (s : State) : Host.Outcome State Fault Refusal :=
  execEvex 64 128 true [.avx512vl, .avx512f] f s

/-- VPABSQ ymm1, ymm2/m256/m64bcst, EVEX, with write-mask and zeroing (R195). -/
def execVpabsqEvex256 (f : EvexForm) (s : State) : Host.Outcome State Fault Refusal :=
  execEvex 64 256 true [.avx512vl, .avx512f] f s

/-- VPABSQ zmm1, zmm2/m512/m64bcst, EVEX, with write-mask and zeroing (R196). -/
def execVpabsqEvex512 (f : EvexForm) (s : State) : Host.Outcome State Fault Refusal :=
  execEvex 64 512 true [.avx512f] f s

end Sys2Proof.Machine
end

