-- ==== Sys2Proof/Machine/Legacy.lean ====
section
/-!
DEFINITION. The six legacy-encoded forms (`40_pabs_legacy.md` R143 to R149).
-/
namespace Sys2Proof.Machine

/-- What an MMX form does with element width `w` (R143, R145, R147): the checks of R218, the source, then
`mm[d] <- PackedAbs(w, 64, SRC)` and `rip <- rip + len`. -/
def execMmx (w : Nat) (f : LegacyForm) (s : State) : Host.Outcome State Fault Refusal :=
  match mmxChecks s.cfg f with
  | some e => raise e
  | none =>
    match mmxSource s f with
    | .error e => stopOutcome e
    | .ok src  => .next ((s.setMm f.reg (packedAbs w 64 src)).advance f.len)

/-- The low 128 bits of a vector register replaced, the upper bits kept (R144: unmodified). -/
def keepUpper (old : BitVec 512) (low : BitVec 128) : BitVec 512 :=
  (old >>> 128 <<< 128) ||| low.setWidth 512

/-- What a legacy xmm form does with element width `w` (R144, R146, R148): the checks of R220, the source, then
`zmm[d][127:0] <- PackedAbs(w, 128, SRC)`, the upper bits unchanged, and `rip <- rip + len`. -/
def execXmm (w : Nat) (f : LegacyForm) (s : State) : Host.Outcome State Fault Refusal :=
  match xmmChecks s.cfg f with
  | some e => raise e
  | none =>
    match xmmSource s f with
    | .error e => stopOutcome e
    | .ok src  =>
      .next ((s.setZmm (legacyDst f) (keepUpper (s.zmmReg (legacyDst f)) (packedAbs w 128 src))).advance f.len)

/-- PABSB mm1, mm2/m64 (R143). -/
def execPabsbMm (f : LegacyForm) (s : State) : Host.Outcome State Fault Refusal := execMmx 8 f s

/-- PABSB xmm1, xmm2/m128 (R144). -/
def execPabsbXmm (f : LegacyForm) (s : State) : Host.Outcome State Fault Refusal := execXmm 8 f s

/-- PABSW mm1, mm2/m64 (R145). -/
def execPabswMm (f : LegacyForm) (s : State) : Host.Outcome State Fault Refusal := execMmx 16 f s

/-- PABSW xmm1, xmm2/m128 (R146). -/
def execPabswXmm (f : LegacyForm) (s : State) : Host.Outcome State Fault Refusal := execXmm 16 f s

/-- PABSD mm1, mm2/m64 (R147). -/
def execPabsdMm (f : LegacyForm) (s : State) : Host.Outcome State Fault Refusal := execMmx 32 f s

/-- PABSD xmm1, xmm2/m128 (R148). -/
def execPabsdXmm (f : LegacyForm) (s : State) : Host.Outcome State Fault Refusal := execXmm 32 f s

end Sys2Proof.Machine
end

