-- ==== Sys2Proof/Machine/Vex.lean ====
section
/-!
DEFINITION. The six VEX-encoded forms (`41_vpabs_vex.md` R160 to R166).
-/
namespace Sys2Proof.Machine

/-- What a VEX form of element width `w` and length `VL` does (R160 to R166): the checks of R221, the source, then
`zmm[d][VL-1:0] <- PackedAbs(w, VL, SRC)`, `zmm[d][MAXVL-1:VL] <- 0` and `rip <- rip + len`. -/
def execVex (w VL : Nat) (feature : Feature) (f : VexForm) (s : State) : Host.Outcome State Fault Refusal :=
  match vexChecks s.cfg feature f with
  | some e => raise e
  | none =>
    match vexSource VL s f with
    | .error e => stopOutcome e
    | .ok src  => .next ((s.setZmm (vexDst f) ((packedAbs w VL src).setWidth 512)).advance f.len)

/-- VPABSB xmm1, xmm2/m128, VEX (R161). -/
def execVpabsbVex128 (f : VexForm) (s : State) : Host.Outcome State Fault Refusal := execVex 8 128 .avx f s

/-- VPABSW xmm1, xmm2/m128, VEX (R162). -/
def execVpabswVex128 (f : VexForm) (s : State) : Host.Outcome State Fault Refusal := execVex 16 128 .avx f s

/-- VPABSD xmm1, xmm2/m128, VEX (R163). -/
def execVpabsdVex128 (f : VexForm) (s : State) : Host.Outcome State Fault Refusal := execVex 32 128 .avx f s

/-- VPABSB ymm1, ymm2/m256, VEX (R164). -/
def execVpabsbVex256 (f : VexForm) (s : State) : Host.Outcome State Fault Refusal := execVex 8 256 .avx2 f s

/-- VPABSW ymm1, ymm2/m256, VEX (R165). -/
def execVpabswVex256 (f : VexForm) (s : State) : Host.Outcome State Fault Refusal := execVex 16 256 .avx2 f s

/-- VPABSD ymm1, ymm2/m256, VEX (R166). -/
def execVpabsdVex256 (f : VexForm) (s : State) : Host.Outcome State Fault Refusal := execVex 32 256 .avx2 f s

end Sys2Proof.Machine
end

