-- ==== Sys2Proof/Machine/Dispatch.lean ====
section
/-! DEFINITION. One arm per form: a direct call of its meaning. -/
namespace Sys2Proof.Machine

def exec (i : Instr) (s : State) : Host.Outcome State Fault Refusal :=
  match i with
  | .pabsbMm f => Sys2Proof.Machine.execPabsbMm f s
  | .pabsbXmm f => Sys2Proof.Machine.execPabsbXmm f s
  | .pabswMm f => Sys2Proof.Machine.execPabswMm f s
  | .pabswXmm f => Sys2Proof.Machine.execPabswXmm f s
  | .pabsdMm f => Sys2Proof.Machine.execPabsdMm f s
  | .pabsdXmm f => Sys2Proof.Machine.execPabsdXmm f s
  | .vpabsbVex128 f => Sys2Proof.Machine.execVpabsbVex128 f s
  | .vpabswVex128 f => Sys2Proof.Machine.execVpabswVex128 f s
  | .vpabsdVex128 f => Sys2Proof.Machine.execVpabsdVex128 f s
  | .vpabsbVex256 f => Sys2Proof.Machine.execVpabsbVex256 f s
  | .vpabswVex256 f => Sys2Proof.Machine.execVpabswVex256 f s
  | .vpabsdVex256 f => Sys2Proof.Machine.execVpabsdVex256 f s
  | .vpabsbEvex128 f => Sys2Proof.Machine.execVpabsbEvex128 f s
  | .vpabsbEvex256 f => Sys2Proof.Machine.execVpabsbEvex256 f s
  | .vpabsbEvex512 f => Sys2Proof.Machine.execVpabsbEvex512 f s
  | .vpabswEvex128 f => Sys2Proof.Machine.execVpabswEvex128 f s
  | .vpabswEvex256 f => Sys2Proof.Machine.execVpabswEvex256 f s
  | .vpabswEvex512 f => Sys2Proof.Machine.execVpabswEvex512 f s
  | .vpabsdEvex128 f => Sys2Proof.Machine.execVpabsdEvex128 f s
  | .vpabsdEvex256 f => Sys2Proof.Machine.execVpabsdEvex256 f s
  | .vpabsdEvex512 f => Sys2Proof.Machine.execVpabsdEvex512 f s
  | .vpabsqEvex128 f => Sys2Proof.Machine.execVpabsqEvex128 f s
  | .vpabsqEvex256 f => Sys2Proof.Machine.execVpabsqEvex256 f s
  | .vpabsqEvex512 f => Sys2Proof.Machine.execVpabsqEvex512 f s

end Sys2Proof.Machine
end

