-- ==== Sys2Proof/Machine/Fetch.lean ====
section
/-!
DEFINITION. Instruction fetch (`20_memory.md` R68) and placing instruction bytes where the next fetch reads them.
-/
namespace Sys2Proof.Machine

/-- Why the bytes that a fetch gives end. -/
inductive FetchEnd where
  /-- Fifteen bytes were read (`30_encoding.md` R116). -/
  | limit
  /-- The next byte cannot be fetched: a fault (R68). -/
  | fault (e : Fault)
  /-- The next byte lies at or above the top of the address space (`10_state.md` R27). -/
  | refused (r : Refusal)
  deriving DecidableEq, Repr

/-- The first address past the address space: `2^64`, or `2^32` in 32-bit mode (`10_state.md` R27). -/
def topAddress : Mode → Nat
  | .mode64 => 2 ^ 64
  | .mode32 => 2 ^ 32

/-- The fetch address: `rip`, or its low 32 bits in 32-bit mode (R68). -/
def fetchAddress (s : State) : Nat :=
  match s.cfg.mode with
  | .mode64 => s.rip.toNat
  | .mode32 => (s.rip.setWidth 32).toNat

/-- Why the byte at `a` cannot be fetched, if it cannot (R68, `10_state.md` R27). R68 and `60_exceptions.md` R238 (1) do
not order these reasons: that the top of the address space is tested first, then canonicality (`#GP(0)`), then `Access`
(`#PF`), is the model's choice (assumption log 12, DESIGN CHOICE). -/
def fetchStop (c : Config) (a : Nat) : Option FetchEnd :=
  if topAddress c.mode ≤ a then some (.refused .pastTop)
  else if c.mode = .mode64 ∧ canonical c.law a = false then some (.fault .gp0)
  else (accessCheck c .fetch a 1).map fun code => .fault (.pf code)

/-- Up to `n` bytes from `a` on, and why they end. -/
def fetchFrom (c : Config) (m : Memory) : Nat → Nat → List Byte × FetchEnd
  | 0, _ => ([], .limit)
  | n + 1, a =>
    match fetchStop c a with
    | some e => ([], e)
    | none   => (readByte m a :: (fetchFrom c m n (a + 1)).1, (fetchFrom c m n (a + 1)).2)

/-- Up to fifteen bytes at the instruction pointer (R68, `70_reset_and_hazards.md` R270). A byte that the decoder does
not need raises nothing (assumption log 12). -/
def fetch (s : State) : List Byte × FetchEnd := fetchFrom s.cfg s.mem maxLen (fetchAddress s)

/-- The outcome when the bytes end before the instruction does: the fetch's fault or refusal, or `#GP(0)` for an
instruction longer than 15 bytes (R116), before any `#UD` of its prefixes (R121; assumption log 12, DEDUCED). -/
def fetchEndOutcome : FetchEnd → Host.Outcome State Fault Refusal
  | .limit     => raise .gp0
  | .fault e   => raise e
  | .refused r => .refused r

/-- The state with bytes stored where the next fetch reads. -/
def State.placeBytes (s : State) (bytes : List Byte) : State :=
  { s with mem := writeBytes s.mem (fetchAddress s) bytes }

end Sys2Proof.Machine
end

