-- ==== Sys2Proof/Machine/Step.lean ====
section
/-!
DEFINITION. One step (`70_reset_and_hazards.md` R270).
-/
namespace Sys2Proof.Machine

/-- One step (R270). At `rip = endAddr` the run is final, nothing is fetched and the state stays (R268, assumption
log 9). An armed debug facility is refused (R252, R262, assumption log 20); otherwise fetch, decode and run the instruction. -/
def step (s : State) : Host.Outcome State Fault Refusal :=
  if s.rip = s.cfg.endAddr then .next s
  else if s.cfg.debugArmed then .refused .debugArmed
  else
    match decode s.cfg.mode (fetch s).1 with
    | .instr i _     => exec i s
    | .invalidOpcode => raise .ud
    | .rejected r    => .refused (.rejected r)
    | .truncated     => fetchEndOutcome (fetch s).2

/-- The state with the instruction of a word of `spec/opcode_table.json` stored where `step` fetches its next
instruction: fifteen bytes, those above the word zero. Nothing else changes. -/
def State.withFetchWord (s : State) (nbits w : Nat) : State := s.placeBytes (wordBytes nbits w)

end Sys2Proof.Machine
end

