-- ==== Sys2Proof/Safety.lean ====
section
/-!
DEFINITION. The terms that claims about this machine use: the launch premises of `70_reset_and_hazards.md` R262, the
rows of the opcode table, when a form is ready to run, what it changes and what it leaves alone.
-/
namespace Sys2Proof.Safety
open Sys2Proof.Machine

/-! ### Launch premises (R262) -/

/-- Memory holds `bytes` from the address `a` on. -/
def TextAt (m : Memory) (a : Nat) (bytes : List Byte) : Prop :=
  ∀ (i : Nat) (h : i < bytes.length), readByte m (a + i) = bytes[i]

/-- `ProgramAt(base, bytes)`: memory holds `bytes` from `base` on, `rip` is `base`, and the bytes lie in the address
space: `base + len(bytes) ≤ 2^32` in 32-bit mode, every address canonical in 64-bit mode. -/
def ProgramAt (s : State) (base : BitVec 64) (bytes : List Byte) : Prop :=
  TextAt s.mem base.toNat bytes ∧ s.rip = base ∧
    (s.cfg.mode = .mode32 → base.toNat + bytes.length ≤ 2 ^ 32) ∧
    (s.cfg.mode = .mode64 → ∀ i < bytes.length, canonical s.cfg.law (base.toNat + i) = true)

/-- `TextFixed`: no run from `s`, of any length, changes a byte of the program text at `base`. -/
def TextFixed (s : State) (base : BitVec 64) (bytes : List Byte) : Prop :=
  ∀ (n : Nat) (t : State), Sys2Proof.core.run n s = .next t → TextAt t.mem base.toNat bytes

/-- `Fetchable`: `n` bytes at the instruction pointer can be fetched. -/
def Fetchable (s : State) (n : Nat) : Prop := ∀ i < n, fetchStop s.cfg (fetchAddress s + i) = none

/-- A data read of `n` bytes at `lin` is in range and `Access` answers Ok. -/
def Accessible (c : Config) (lin n : Nat) : Prop := rangeOk c lin n = true ∧ accessCheck c .dataRead lin n = none

/-- `Readable(lin, n)`: in range, `Access` answers Ok, and the bytes are ordinary memory, whose reads are idempotent and
free of side effects (`20_memory.md` R60). -/
def Readable (c : Config) (lin n : Nat) : Prop := Accessible c lin n ∧ ordinary c lin n = true

/-- `Aligned16(lin)`. -/
def Aligned16 (lin : Nat) : Prop := lin % 16 = 0

/-- `NoAlignCheck`: alignment checking is off. -/
def NoAlignCheck (c : Config) : Prop := ¬ (c.env.cr0Am = true ∧ c.env.eflagsAc = true ∧ c.env.cpl = 3#2)

/-- The part of `OsEnabled` (R264) that the VEX forms need. -/
def VexEnabled (e : Env) : Prop := e.cr4Osxsave = true ∧ e.xcr0Sse = true ∧ e.xcr0Avx = true

/-- The part of `OsEnabled` (R264) that the EVEX forms need. -/
def EvexEnabled (e : Env) : Prop :=
  VexEnabled e ∧ e.xcr0Opmask = true ∧ e.xcr0ZmmHi256 = true ∧ e.xcr0Hi16Zmm = true

/-- `NoDebug`: no breakpoint, single-step or trace facility is armed (`60_exceptions.md` R252). -/
def NoDebug (c : Config) : Prop := c.debugArmed = false

/-- `OsEnabled` (R264). -/
def OsEnabled (e : Env) : Prop :=
  e.cr0Em = false ∧ e.cr0Ts = false ∧ e.x87Pending = false ∧ e.cr4Osfxsr = true ∧ EvexEnabled e

/-- `Features(S)`. -/
def HasFeatures (c : Config) (fs : List Feature) : Prop := ∀ x ∈ fs, c.feat.has x = true

/-- `EndsAt`: the run is final here (R268). -/
def Final (s : State) : Prop := s.rip = s.cfg.endAddr

/-- A safe run: `n` steps from `s` without fault or refusal reach the final state `t` (R263, R268). -/
def SafeRun (s : State) (n : Nat) (t : State) : Prop := Sys2Proof.core.run n s = .next t ∧ Final t

/-- The outcome of running instructions one after another, stopping at the first fault or refusal. -/
def execAll : List Instr → State → Host.Outcome State Fault Refusal
  | [], s => .next s
  | i :: is, s =>
    match exec i s with
    | .next t    => execAll is t
    | .fault e   => .fault e
    | .refused r => .refused r

/-- The state with the privilege level set to `p` (`10_state.md` R29). -/
def withCpl (s : State) (p : BitVec 2) : State :=
  { s with cfg := { s.cfg with env := { s.cfg.env with cpl := p } } }

/-! ### The opcode table -/

/-- Operand 2 of a form, the source (R102). -/
def sourceOf : Instr → RM
  | .pabsbMm f | .pabsbXmm f | .pabswMm f | .pabswXmm f | .pabsdMm f | .pabsdXmm f => f.rm
  | .vpabsbVex128 f | .vpabswVex128 f | .vpabsdVex128 f => f.rm
  | .vpabsbVex256 f | .vpabswVex256 f | .vpabsdVex256 f => f.rm
  | .vpabsbEvex128 f | .vpabsbEvex256 f | .vpabsbEvex512 f => f.rm
  | .vpabswEvex128 f | .vpabswEvex256 f | .vpabswEvex512 f => f.rm
  | .vpabsdEvex128 f | .vpabsdEvex256 f | .vpabsdEvex512 f => f.rm
  | .vpabsqEvex128 f | .vpabsqEvex256 f | .vpabsqEvex512 f => f.rm

/-- The CPUID flags of a form's row (`30_encoding.md` R89). -/
def rowFeatures : Instr → List Feature
  | .pabsbMm _ | .pabsbXmm _ | .pabswMm _ | .pabswXmm _ | .pabsdMm _ | .pabsdXmm _ => [.ssse3]
  | .vpabsbVex128 _ | .vpabswVex128 _ | .vpabsdVex128 _ => [.avx]
  | .vpabsbVex256 _ | .vpabswVex256 _ | .vpabsdVex256 _ => [.avx2]
  | .vpabsbEvex128 _ | .vpabsbEvex256 _ | .vpabswEvex128 _ | .vpabswEvex256 _ => [.avx512vl, .avx512bw]
  | .vpabsbEvex512 _ | .vpabswEvex512 _ => [.avx512bw]
  | .vpabsdEvex128 _ | .vpabsdEvex256 _ | .vpabsqEvex128 _ | .vpabsqEvex256 _ => [.avx512vl, .avx512f]
  | .vpabsdEvex512 _ | .vpabsqEvex512 _ => [.avx512f]

/-- The prefixes of a form. -/
def prefixesOf : Instr → Prefixes
  | .pabsbMm f | .pabsbXmm f | .pabswMm f | .pabswXmm f | .pabsdMm f | .pabsdXmm f => f.pfx
  | .vpabsbVex128 f | .vpabswVex128 f | .vpabsdVex128 f => f.pfx
  | .vpabsbVex256 f | .vpabswVex256 f | .vpabsdVex256 f => f.pfx
  | .vpabsbEvex128 f | .vpabsbEvex256 f | .vpabsbEvex512 f => f.pfx
  | .vpabswEvex128 f | .vpabswEvex256 f | .vpabswEvex512 f => f.pfx
  | .vpabsdEvex128 f | .vpabsdEvex256 f | .vpabsdEvex512 f => f.pfx
  | .vpabsqEvex128 f | .vpabsqEvex256 f | .vpabsqEvex512 f => f.pfx

/-- The vector register a form writes, none for the MMX forms (R108). -/
def vectorDst : Instr → Option (BitVec 5)
  | .pabsbMm _ | .pabswMm _ | .pabsdMm _ => none
  | .pabsbXmm f | .pabswXmm f | .pabsdXmm f => some (legacyDst f)
  | .vpabsbVex128 f | .vpabswVex128 f | .vpabsdVex128 f => some (vexDst f)
  | .vpabsbVex256 f | .vpabswVex256 f | .vpabsdVex256 f => some (vexDst f)
  | .vpabsbEvex128 f | .vpabsbEvex256 f | .vpabsbEvex512 f => some (evexDst f)
  | .vpabswEvex128 f | .vpabswEvex256 f | .vpabswEvex512 f => some (evexDst f)
  | .vpabsdEvex128 f | .vpabsdEvex256 f | .vpabsdEvex512 f => some (evexDst f)
  | .vpabsqEvex128 f | .vpabsqEvex256 f | .vpabsqEvex512 f => some (evexDst f)

/-- The source vector register of a register form, none for the MMX forms and for a memory source (R102, R108). -/
def vectorSrc : Instr → Option (BitVec 5)
  | .pabsbMm _ | .pabswMm _ | .pabsdMm _ => none
  | .pabsbXmm f | .pabswXmm f | .pabsdXmm f =>
    match f.rm with | .reg rm => some (legacySrc f rm) | .mem _ => none
  | .vpabsbVex128 f | .vpabswVex128 f | .vpabsdVex128 f =>
    match f.rm with | .reg rm => some (vexSrc f rm) | .mem _ => none
  | .vpabsbVex256 f | .vpabswVex256 f | .vpabsdVex256 f =>
    match f.rm with | .reg rm => some (vexSrc f rm) | .mem _ => none
  | .vpabsbEvex128 f | .vpabsbEvex256 f | .vpabsbEvex512 f =>
    match f.rm with | .reg rm => some (evexSrc f rm) | .mem _ => none
  | .vpabswEvex128 f | .vpabswEvex256 f | .vpabswEvex512 f =>
    match f.rm with | .reg rm => some (evexSrc f rm) | .mem _ => none
  | .vpabsdEvex128 f | .vpabsdEvex256 f | .vpabsdEvex512 f =>
    match f.rm with | .reg rm => some (evexSrc f rm) | .mem _ => none
  | .vpabsqEvex128 f | .vpabsqEvex256 f | .vpabsqEvex512 f =>
    match f.rm with | .reg rm => some (evexSrc f rm) | .mem _ => none

/-- The encoding class of a form (R80). -/
def encClass : Instr → EncClass
  | .pabsbMm _ | .pabsbXmm _ | .pabswMm _ | .pabswXmm _ | .pabsdMm _ | .pabsdXmm _ => .legacy
  | .vpabsbVex128 _ | .vpabswVex128 _ | .vpabsdVex128 _ => .vex
  | .vpabsbVex256 _ | .vpabswVex256 _ | .vpabsdVex256 _ => .vex
  | .vpabsbEvex128 _ | .vpabsbEvex256 _ | .vpabsbEvex512 _ => .evex
  | .vpabswEvex128 _ | .vpabswEvex256 _ | .vpabswEvex512 _ => .evex
  | .vpabsdEvex128 _ | .vpabsdEvex256 _ | .vpabsdEvex512 _ => .evex
  | .vpabsqEvex128 _ | .vpabsqEvex256 _ | .vpabsqEvex512 _ => .evex

/-! ### When a form is ready to run (R218 to R222, the conditions before the source is read) -/

/-- No check of R218 stops an MMX form. -/
def MmxReady (c : Config) (f : LegacyForm) : Prop :=
  f.pfx.lock = false ∧ c.feat.ssse3 = true ∧ c.env.cr0Em = false ∧ c.env.cr0Ts = false ∧ c.env.x87Pending = false

/-- No check of R220 stops a legacy xmm form. -/
def XmmReady (c : Config) (f : LegacyForm) : Prop :=
  f.pfx.lock = false ∧ c.feat.ssse3 = true ∧ c.env.cr0Em = false ∧ c.env.cr4Osfxsr = true ∧ c.env.cr0Ts = false

/-- None of LOCK, 66, F2, F3 and REX stands before a VEX or EVEX prefix (R121). -/
def NoStrayPrefix (p : Prefixes) : Prop :=
  p.lock = false ∧ p.opsize = false ∧ p.repne = false ∧ p.rep = false ∧ p.rex = none

/-- No check of R221 stops a VEX form. -/
def VexReady (c : Config) (feature : Feature) (f : VexForm) : Prop :=
  NoStrayPrefix f.pfx ∧ f.vvvv = 15#4 ∧ c.feat.has feature = true ∧ VexEnabled c.env ∧ c.env.cr0Ts = false

/-- The reserved fields of an EVEX form that do not speak of `EVEX.b` have the values R117, R118, R122 and R126
require. -/
def EvexFieldsOk (f : EvexForm) : Prop :=
  NoStrayPrefix f.pfx ∧ f.p0Fixed = 0#2 ∧ f.p1Fixed = true ∧ f.vvvv = 15#4 ∧ f.vHiBar = true ∧
    (f.z = true → f.aaa ≠ 0#3)

/-- No check of R222 stops an EVEX form, the one on `EVEX.b` (R120) apart. -/
def EvexReady (c : Config) (features : List Feature) (f : EvexForm) : Prop :=
  EvexFieldsOk f ∧ HasFeatures c features ∧ EvexEnabled c.env ∧ c.env.cr0Ts = false

/-- The memory operand of `n` bytes at `lin` can be read: in range, `Access` answers Ok, ordinary memory, no alignment
check (R55, R60). -/
def OperandOk (c : Config) (lin n : Nat) (shape : AcShape) : Prop :=
  Readable c lin n ∧ alignCheck c shape lin n = false

/-! ### What a form changes and what it leaves alone -/

/-- Memory, opmask and general registers, segment bases and the configuration are unchanged. -/
def SameSystem (s t : State) : Prop :=
  (∀ a, readByte t.mem a = readByte s.mem a) ∧ (∀ i, t.kReg i = s.kReg i) ∧ (∀ i, t.gprReg i = s.gprReg i) ∧
    t.fsBase = s.fsBase ∧ t.gsBase = s.gsBase ∧ t.cfg = s.cfg

/-- Only `mm[d]` and `rip` may differ. -/
def OnlyMm (d : BitVec 3) (s t : State) : Prop :=
  (∀ i, i ≠ d → t.mmReg i = s.mmReg i) ∧ (∀ i, t.zmmReg i = s.zmmReg i) ∧ SameSystem s t

/-- Only `zmm[d]` and `rip` may differ. -/
def OnlyZmm (d : BitVec 5) (s t : State) : Prop :=
  (∀ i, i ≠ d → t.zmmReg i = s.zmmReg i) ∧ (∀ i, t.mmReg i = s.mmReg i) ∧ SameSystem s t

/-- Each of the `n` lanes of `dst` is, read unsigned, the magnitude of the lane of `src` read signed (R140, R141). -/
def LanesAbs {L K : Nat} (w n : Nat) (src : BitVec L) (dst : BitVec K) : Prop :=
  ∀ j < n, (dst.extractLsb' (w * j) w).toNat = (src.extractLsb' (w * j) w).toInt.natAbs

/-- The effect of an MMX form on source value `src` (R143, R145, R147). -/
def MmxEffect (w : Nat) (f : LegacyForm) (src : BitVec 64) (s t : State) : Prop :=
  LanesAbs w (64 / w) src (t.mmReg f.reg) ∧ t.rip = s.rip + BitVec.ofNat 64 f.len ∧ OnlyMm f.reg s t

/-- The effect of a legacy xmm form on source value `src` (R144, R146, R148): the upper bits are kept. -/
def XmmEffect (w : Nat) (f : LegacyForm) (src : BitVec 128) (s t : State) : Prop :=
  LanesAbs w (128 / w) src (t.zmmReg (legacyDst f)) ∧
    (∀ i, 128 ≤ i → (t.zmmReg (legacyDst f)).getLsbD i = (s.zmmReg (legacyDst f)).getLsbD i) ∧
    t.rip = s.rip + BitVec.ofNat 64 f.len ∧ OnlyZmm (legacyDst f) s t

/-- The effect of a VEX form on source value `src` (R160 to R166): the upper bits are zeroed. -/
def VexEffect (w VL : Nat) (f : VexForm) (src : BitVec VL) (s t : State) : Prop :=
  LanesAbs w (VL / w) src (t.zmmReg (vexDst f)) ∧ (∀ i, VL ≤ i → (t.zmmReg (vexDst f)).getLsbD i = false) ∧
    t.rip = s.rip + BitVec.ofNat 64 f.len ∧ OnlyZmm (vexDst f) s t

/-- Mask bit `j` of an EVEX form (R181): every bit is 1 for `aaa = 000b`. -/
def MaskBit (s : State) (f : EvexForm) (j : Nat) : Prop := f.aaa = 0#3 ∨ (s.kReg f.aaa).getLsbD j = true

/-- The effect of an EVEX form whose source element `j` is `src j` (R183, R184): computed where the mask bit is 1,
else kept or zeroed; the bits above the vector length are zeroed. -/
def EvexEffect (w VL : Nat) (f : EvexForm) (src : Nat → BitVec w) (s t : State) : Prop :=
  (∀ j < VL / w,
    (MaskBit s f j → ((t.zmmReg (evexDst f)).extractLsb' (w * j) w).toNat = (src j).toInt.natAbs) ∧
    (¬ MaskBit s f j → f.z = false →
      (t.zmmReg (evexDst f)).extractLsb' (w * j) w = (s.zmmReg (evexDst f)).extractLsb' (w * j) w) ∧
    (¬ MaskBit s f j → f.z = true → (t.zmmReg (evexDst f)).extractLsb' (w * j) w = 0)) ∧
    (∀ i, VL ≤ i → (t.zmmReg (evexDst f)).getLsbD i = false) ∧
    t.rip = s.rip + BitVec.ofNat 64 f.len ∧ OnlyZmm (evexDst f) s t

/-! ### Completion: a form runs and has its effect -/

/-- An MMX form with a register source runs. -/
def MmxRegRuns (c : LegacyForm → Instr) (w : Nat) : Prop :=
  ∀ (s : State) (f : LegacyForm) (rm : BitVec 3), f.rm = .reg rm → MmxReady s.cfg f →
    ∃ t, exec (c f) s = .next t ∧ MmxEffect w f (s.mmReg rm) s t

/-- An MMX form with a memory source runs: 8 bytes, of any alignment. -/
def MmxMemRuns (c : LegacyForm → Instr) (w : Nat) : Prop :=
  ∀ (s : State) (f : LegacyForm) (m : MemRef), f.rm = .mem m → MmxReady s.cfg f →
    OperandOk s.cfg (legacyAddress s f m) 8 .mmx →
    ∃ t, exec (c f) s = .next t ∧ MmxEffect w f (loadLE 64 s.mem (legacyAddress s f m)) s t

/-- A legacy xmm form with a register source runs. -/
def XmmRegRuns (c : LegacyForm → Instr) (w : Nat) : Prop :=
  ∀ (s : State) (f : LegacyForm) (rm : BitVec 3), f.rm = .reg rm → XmmReady s.cfg f →
    ∃ t, exec (c f) s = .next t ∧ XmmEffect w f ((s.zmmReg (legacySrc f rm)).setWidth 128) s t

/-- A legacy xmm form with a memory source runs: 16 bytes, aligned (R57). -/
def XmmMemRuns (c : LegacyForm → Instr) (w : Nat) : Prop :=
  ∀ (s : State) (f : LegacyForm) (m : MemRef), f.rm = .mem m → XmmReady s.cfg f →
    Readable s.cfg (legacyAddress s f m) 16 → Aligned16 (legacyAddress s f m) →
    ∃ t, exec (c f) s = .next t ∧ XmmEffect w f (loadLE 128 s.mem (legacyAddress s f m)) s t

/-- A VEX form with a register source runs. -/
def VexRegRuns (c : VexForm → Instr) (w VL : Nat) (feature : Feature) : Prop :=
  ∀ (s : State) (f : VexForm) (rm : BitVec 3), f.rm = .reg rm → VexReady s.cfg feature f →
    ∃ t, exec (c f) s = .next t ∧ VexEffect w VL f ((s.zmmReg (vexSrc f rm)).setWidth VL) s t

/-- A VEX form with a memory source runs: `VL / 8` bytes, of any alignment. -/
def VexMemRuns (c : VexForm → Instr) (w VL : Nat) (feature : Feature) : Prop :=
  ∀ (s : State) (f : VexForm) (m : MemRef), f.rm = .mem m → VexReady s.cfg feature f →
    OperandOk s.cfg (vexAddress s f m) (VL / 8) .vector →
    ∃ t, exec (c f) s = .next t ∧ VexEffect w VL f (loadLE VL s.mem (vexAddress s f m)) s t

/-- An EVEX form with a register source runs. -/
def EvexRegRuns (c : EvexForm → Instr) (w VL : Nat) (features : List Feature) : Prop :=
  ∀ (s : State) (f : EvexForm) (rm : BitVec 3), f.rm = .reg rm → f.b = false → EvexReady s.cfg features f →
    ∃ t, exec (c f) s = .next t ∧
      EvexEffect w VL f (fun j => (s.zmmReg (evexSrc f rm)).extractLsb' (w * j) w) s t

/-- An EVEX form with a full-width memory source runs when the whole operand can be read (R182); with `suppress` and
a write-mask the statement is `EvexSuppressedRuns`. -/
def EvexMemRuns (c : EvexForm → Instr) (w VL : Nat) (features : List Feature) : Prop :=
  ∀ (s : State) (f : EvexForm) (m : MemRef), f.rm = .mem m → f.b = false → EvexReady s.cfg features f →
    (s.cfg.suppress = false ∨ f.aaa = 0#3) → OperandOk s.cfg (evexAddress w VL s f m) (VL / 8) .vector →
    ∃ t, exec (c f) s = .next t ∧
      EvexEffect w VL f (fun j => (loadLE VL s.mem (evexAddress w VL s f m)).extractLsb' (w * j) w) s t

/-- With `suppress` and a write-mask, an EVEX form with a full-width memory source runs when the elements whose mask
bit is 1 can be read; the others are neither checked nor read (`60_exceptions.md` R236). -/
def EvexSuppressedRuns (c : EvexForm → Instr) (w VL : Nat) (features : List Feature) : Prop :=
  ∀ (s : State) (f : EvexForm) (m : MemRef), f.rm = .mem m → f.b = false → EvexReady s.cfg features f →
    s.cfg.suppress = true → f.aaa ≠ 0#3 →
    (∀ j < VL / w, MaskBit s f j → Readable s.cfg (evexAddress w VL s f m + j * (w / 8)) (w / 8)) →
    alignCheck s.cfg .vector (evexAddress w VL s f m) (VL / 8) = false →
    ∃ t, exec (c f) s = .next t ∧
      EvexEffect w VL f (fun j => loadLE w s.mem (evexAddress w VL s f m + j * (w / 8))) s t

/-- An EVEX form with an embedded broadcast runs when its one element of `w / 8` bytes can be read, and every element
of the source is that one (R182, `20_memory.md` R53). With `suppress` and no mask bit set nothing is read (R236). -/
def EvexBroadcastRuns (c : EvexForm → Instr) (w VL : Nat) (features : List Feature) : Prop :=
  ∀ (s : State) (f : EvexForm) (m : MemRef), f.rm = .mem m → f.b = true → EvexReady s.cfg features f →
    (OperandOk s.cfg (evexAddress w VL s f m) (w / 8) .broadcast ∨
      (s.cfg.suppress = true ∧ ∀ j < VL / w, ¬ MaskBit s f j)) →
    ∃ t, exec (c f) s = .next t ∧
      EvexEffect w VL f (fun _ => loadLE w s.mem (evexAddress w VL s f m)) s t

/-! ### Traps: where a form faults (R218 to R222, R238) -/

/-- The faults of a memory operand of `n` bytes at `lin` through `seg`, in their order (R55, R238): range, 16-byte
alignment where required, page fault, alignment check. -/
def OperandFault (c : Config) (seg : Seg) (lin n : Nat) (align16 : Bool) (shape : AcShape) (e : Fault) : Prop :=
  (rangeOk c lin n = false ∧ e = (if seg = .ss then .ss0 else .gp0)) ∨
  (rangeOk c lin n = true ∧ align16 = true ∧ ¬ Aligned16 lin ∧ e = .gp0) ∨
  (rangeOk c lin n = true ∧ (align16 = true → Aligned16 lin) ∧
    ∃ code, accessCheck c .dataRead lin n = some code ∧ e = .pf code) ∨
  (Accessible c lin n ∧ (align16 = true → Aligned16 lin) ∧ alignCheck c shape lin n = true ∧ e = .ac0)

/-- Where an MMX form faults (R218). -/
def MmxFaults (c : LegacyForm → Instr) : Prop :=
  ∀ (s : State) (f : LegacyForm),
    (f.pfx.lock = true ∨ s.cfg.feat.ssse3 = false ∨ s.cfg.env.cr0Em = true → exec (c f) s = .fault .ud) ∧
    (f.pfx.lock = false → s.cfg.feat.ssse3 = true → s.cfg.env.cr0Em = false → s.cfg.env.cr0Ts = true →
      exec (c f) s = .fault .nm) ∧
    (f.pfx.lock = false → s.cfg.feat.ssse3 = true → s.cfg.env.cr0Em = false → s.cfg.env.cr0Ts = false →
      s.cfg.env.x87Pending = true → exec (c f) s = .fault .mf) ∧
    (∀ m e, f.rm = .mem m → MmxReady s.cfg f →
      OperandFault s.cfg (segmentOf f.pfx (legacyB f) m) (legacyAddress s f m) 8 false .mmx e →
      exec (c f) s = .fault e)

/-- Where a legacy xmm form faults (R220). -/
def XmmFaults (c : LegacyForm → Instr) : Prop :=
  ∀ (s : State) (f : LegacyForm),
    (f.pfx.lock = true ∨ s.cfg.feat.ssse3 = false ∨ s.cfg.env.cr0Em = true ∨ s.cfg.env.cr4Osfxsr = false →
      exec (c f) s = .fault .ud) ∧
    (f.pfx.lock = false → s.cfg.feat.ssse3 = true → s.cfg.env.cr0Em = false → s.cfg.env.cr4Osfxsr = true →
      s.cfg.env.cr0Ts = true → exec (c f) s = .fault .nm) ∧
    (∀ m e, f.rm = .mem m → XmmReady s.cfg f →
      OperandFault s.cfg (segmentOf f.pfx (legacyB f) m) (legacyAddress s f m) 16 true .vector e →
      exec (c f) s = .fault e ∧ e ≠ .ac0)

/-- Where a VEX form faults (R221). -/
def VexFaults (c : VexForm → Instr) (VL : Nat) (feature : Feature) : Prop :=
  ∀ (s : State) (f : VexForm),
    (¬ NoStrayPrefix f.pfx ∨ f.vvvv ≠ 15#4 ∨ s.cfg.feat.has feature = false ∨ ¬ VexEnabled s.cfg.env →
      exec (c f) s = .fault .ud) ∧
    (NoStrayPrefix f.pfx → f.vvvv = 15#4 → s.cfg.feat.has feature = true → VexEnabled s.cfg.env →
      s.cfg.env.cr0Ts = true → exec (c f) s = .fault .nm) ∧
    (∀ m e, f.rm = .mem m → VexReady s.cfg feature f →
      OperandFault s.cfg (segmentOf f.pfx (!f.bBar) m) (vexAddress s f m) (VL / 8) false .vector e →
      exec (c f) s = .fault e ∧ (e = .ac0 → s.cfg.acPolicy = .always))

/-- `EVEX.b` on a form and a source that do not admit it (R120). -/
def BroadcastBad (bcst : Bool) (f : EvexForm) : Prop := f.b = true ∧ (bcst = false ∨ ∃ rm, f.rm = .reg rm)

/-- Where an EVEX form faults before its memory operand is read (R222), `L'L = 11b` apart, which names no form. -/
def EvexFaults (c : EvexForm → Instr) (bcst : Bool) (features : List Feature) : Prop :=
  ∀ (s : State) (f : EvexForm),
    (¬ EvexFieldsOk f ∨ BroadcastBad bcst f ∨ ¬ HasFeatures s.cfg features ∨ ¬ EvexEnabled s.cfg.env →
      exec (c f) s = .fault .ud) ∧
    (EvexFieldsOk f → ¬ BroadcastBad bcst f → HasFeatures s.cfg features → EvexEnabled s.cfg.env →
      s.cfg.env.cr0Ts = true → exec (c f) s = .fault .nm)

/-- Where the memory operand of an EVEX form faults (R222, R236). Without `suppress` the whole operand is checked
whatever the mask is; a form without a write-mask and a broadcast with some mask bit set are checked with it too. -/
def EvexMemFaults (c : EvexForm → Instr) (w VL : Nat) (bcst : Bool) (features : List Feature) : Prop :=
  ∀ (s : State) (f : EvexForm) (m : MemRef) (e : Fault), f.rm = .mem m → EvexReady s.cfg features f →
    (f.b = false → (s.cfg.suppress = false ∨ f.aaa = 0#3) →
      OperandFault s.cfg (segmentOf f.pfx (!f.bBar) m) (evexAddress w VL s f m) (VL / 8) false .vector e →
      exec (c f) s = .fault e) ∧
    (f.b = true → bcst = true → (s.cfg.suppress = false ∨ ∃ j < VL / w, MaskBit s f j) →
      OperandFault s.cfg (segmentOf f.pfx (!f.bBar) m) (evexAddress w VL s f m) (w / 8) false .broadcast e →
      exec (c f) s = .fault e)

/-- Where the full-width memory operand of an EVEX form with a write-mask faults under fault suppression (R236 with
`suppress = true`): the range faults of the elements whose mask bit is 1 come before their page faults, the first page
fault is the lowest element's, and the alignment check is last (assumption log 16). -/
def EvexSuppressedFaults (c : EvexForm → Instr) (w VL : Nat) (features : List Feature) : Prop :=
  ∀ (s : State) (f : EvexForm) (m : MemRef), f.rm = .mem m → f.b = false → EvexReady s.cfg features f →
    s.cfg.suppress = true → f.aaa ≠ 0#3 →
    ((∃ j < VL / w, MaskBit s f j ∧ rangeOk s.cfg (evexAddress w VL s f m + j * (w / 8)) (w / 8) = false) →
      exec (c f) s = .fault (if segmentOf f.pfx (!f.bBar) m = .ss then .ss0 else .gp0)) ∧
    (∀ j code, j < VL / w → MaskBit s f j →
      (∀ i < VL / w, MaskBit s f i → rangeOk s.cfg (evexAddress w VL s f m + i * (w / 8)) (w / 8) = true) →
      (∀ i < j, MaskBit s f i → accessCheck s.cfg .dataRead (evexAddress w VL s f m + i * (w / 8)) (w / 8) = none) →
      accessCheck s.cfg .dataRead (evexAddress w VL s f m + j * (w / 8)) (w / 8) = some code →
      exec (c f) s = .fault (.pf code)) ∧
    ((∃ j < VL / w, MaskBit s f j) →
      (∀ j < VL / w, MaskBit s f j → Accessible s.cfg (evexAddress w VL s f m + j * (w / 8)) (w / 8)) →
      alignCheck s.cfg .vector (evexAddress w VL s f m) (VL / 8) = true → exec (c f) s = .fault .ac0)

/-! ### Where a form reads what is not ordinary memory (R60, assumption log 21) -/

/-- No fault stops the read of the operand of `n` bytes at `lin`, and the bytes are not ordinary memory. -/
def DeviceOperand (c : Config) (lin n : Nat) (shape : AcShape) : Prop :=
  Accessible c lin n ∧ alignCheck c shape lin n = false ∧ ordinary c lin n = false

/-- An MMX form refuses to read a device. -/
def MmxDeviceRefused (c : LegacyForm → Instr) : Prop :=
  ∀ (s : State) (f : LegacyForm) (m : MemRef), f.rm = .mem m → MmxReady s.cfg f →
    DeviceOperand s.cfg (legacyAddress s f m) 8 .mmx → exec (c f) s = .refused .deviceRead

/-- A legacy xmm form refuses to read a device. -/
def XmmDeviceRefused (c : LegacyForm → Instr) : Prop :=
  ∀ (s : State) (f : LegacyForm) (m : MemRef), f.rm = .mem m → XmmReady s.cfg f →
    Aligned16 (legacyAddress s f m) → DeviceOperand s.cfg (legacyAddress s f m) 16 .vector →
    exec (c f) s = .refused .deviceRead

/-- A VEX form refuses to read a device. -/
def VexDeviceRefused (c : VexForm → Instr) (VL : Nat) (feature : Feature) : Prop :=
  ∀ (s : State) (f : VexForm) (m : MemRef), f.rm = .mem m → VexReady s.cfg feature f →
    DeviceOperand s.cfg (vexAddress s f m) (VL / 8) .vector → exec (c f) s = .refused .deviceRead

/-- An EVEX form refuses to read a device: with the whole operand, with the broadcast element, and under fault
suppression with an element whose mask bit is 1. -/
def EvexDeviceRefused (c : EvexForm → Instr) (w VL : Nat) (bcst : Bool) (features : List Feature) : Prop :=
  ∀ (s : State) (f : EvexForm) (m : MemRef), f.rm = .mem m → EvexReady s.cfg features f →
    (f.b = false → (s.cfg.suppress = false ∨ f.aaa = 0#3) →
      DeviceOperand s.cfg (evexAddress w VL s f m) (VL / 8) .vector → exec (c f) s = .refused .deviceRead) ∧
    (f.b = true → bcst = true → (s.cfg.suppress = false ∨ ∃ j < VL / w, MaskBit s f j) →
      DeviceOperand s.cfg (evexAddress w VL s f m) (w / 8) .broadcast → exec (c f) s = .refused .deviceRead) ∧
    (f.b = false → s.cfg.suppress = true → f.aaa ≠ 0#3 →
      (∀ j < VL / w, MaskBit s f j → Accessible s.cfg (evexAddress w VL s f m + j * (w / 8)) (w / 8)) →
      alignCheck s.cfg .vector (evexAddress w VL s f m) (VL / 8) = false →
      (∃ j < VL / w, MaskBit s f j ∧ ordinary s.cfg (evexAddress w VL s f m + j * (w / 8)) (w / 8) = false) →
      exec (c f) s = .refused .deviceRead)

/-! ### Invariants -/

/-- The width of a full vector register that `00_scope.md` R7 gives to a set of features. -/
def featureMaxvl (t : Features) : Nat := if t.avx512f then 512 else if t.avx then 256 else 128

/-- A feature set in which a wider extension comes with the narrower ones (assumption log 17). -/
def CoherentFeatures (t : Features) : Prop :=
  (t.avx512bw = true → t.avx512f = true) ∧ (t.avx512vl = true → t.avx512f = true) ∧
    (t.avx512f = true → t.avx = true) ∧ (t.avx2 = true → t.avx = true)

/-- The invariant of the machine: memory is in its canonical form; the bits of the vector registers above the width
that R7 gives to the features are 0; and registers 16 to 31, which exist only with AVX512F (R21), are 0 without it. -/
def Inv (s : State) : Prop :=
  Memory.wf s.mem = true ∧ CoherentFeatures s.cfg.feat ∧
    (∀ i j, featureMaxvl s.cfg.feat ≤ j → (s.zmmReg i).getLsbD j = false) ∧
    (s.cfg.feat.avx512f = false → ∀ i : BitVec 5, 16 ≤ i.toNat → s.zmmReg i = 0)

end Sys2Proof.Safety
end

