-- ==== Sys2Proof/Certificates/Slice0/Obligations.lean ====
section
/-!
DEFINITION. The statements for the provers, from the numbered rules of the spec. The predicates they use stand in
`Sys2Proof/Safety.lean`.
-/
open Sys2Proof Sys2Proof.Machine Sys2Proof.Safety

/-- For every mode, every well-formed instruction i and any bytes after it, decoding the bytes of encode i gives i back
with every field at its value, and leaves exactly the bytes after it. (30_encoding.md section 9 (R114);
30_encoding.md sections 4 to 7 (R90 to R101)) -/
def Obligations.DecodeEncodeAllForms : Prop :=
  ∀ (mode : Mode) (i : Instr) (rest : List Byte), i.wellFormed mode = true →
    decode mode (encode i ++ rest) = .instr i rest

/-- For every mode and bytes: if they decode to i with rest left over, then i is well formed in that mode and the number
of bytes is len(i) (prefixes, REX, core, ModR/M, SIB, displacement) plus the number left over. (30_encoding.md
section 9 (R115); 30_encoding.md section 9 (R114)) -/
def Obligations.DecodedIsWellFormedAndLong : Prop :=
  ∀ (mode : Mode) (bs : List Byte) (i : Instr) (rest : List Byte), decode mode bs = .instr i rest →
    i.wellFormed mode = true ∧ bs.length = i.len + rest.length

/-- PABSB mm1, mm2; PABSW xmm8, xmm9 with REX; VPABSD xmm3, xmm12; VPABSB zmm1 with the address [rax + 1*64] masked by
k2 with zeroing; VPABSQ zmm30, zmm31 masked by k7 with zeroing: each written byte by byte, decodes in 64-bit mode to
that form with these fields. (30_encoding.md R92, R93, R97, R99; 95_test_vectors.md sections 2.2 to 2.4) -/
def Obligations.CanonicalWordsDecode : Prop :=
  decode .mode64 [0x0F#8, 0x38#8, 0x1C#8, 0xCA#8] =
      .instr (.pabsbMm { pfx := {}, reg := 1#3, rm := .reg 2#3 }) [] ∧
    decode .mode64 [0x66#8, 0x45#8, 0x0F#8, 0x38#8, 0x1D#8, 0xC1#8] =
      .instr (.pabswXmm { pfx := { opsize := true, rex := some { w := false, r := true, x := false, b := true } },
                          reg := 0#3, rm := .reg 1#3 }) [] ∧
    decode .mode64 [0xC4#8, 0xC2#8, 0x79#8, 0x1E#8, 0xDC#8] =
      .instr (.vpabsdVex128 { pfx := {}, rBar := true, xBar := true, bBar := false, w := false, vvvv := 15#4,
                              reg := 3#3, rm := .reg 4#3 }) [] ∧
    decode .mode64 [0x62#8, 0xF2#8, 0x7D#8, 0xCA#8, 0x1C#8, 0x48#8, 0x01#8] =
      .instr (.vpabsbEvex512 { pfx := {}, rBar := true, xBar := true, bBar := true, rHiBar := true, p0Fixed := 0#2,
                               w := false, vvvv := 15#4, p1Fixed := true, z := true, b := false, vHiBar := true,
                               aaa := 2#3, reg := 1#3, rm := .mem (.base 0#3 (.d8 1#8)) }) [] ∧
    decode .mode64 [0x62#8, 0x02#8, 0xFD#8, 0xCF#8, 0x1F#8, 0xF7#8] =
      .instr (.vpabsqEvex512 { pfx := {}, rBar := false, xBar := false, bBar := false, rHiBar := false,
                               p0Fixed := 0#2, w := true, vvvv := 15#4, p1Fixed := true, z := true, b := false,
                               vHiBar := true, aaa := 7#3, reg := 6#3, rm := .reg 7#3 }) []

/-- In both modes, the vector register that a decoded form writes, and the one a register form reads, is below NVEC: 8
in 32-bit mode; in 64-bit mode 16 for the legacy and VEX forms and 32 for the EVEX forms. (10_state.md section 1
(R21); 30_encoding.md R95, R98, R108) -/
def Obligations.NamedRegistersAreInTheBank : Prop :=
  ∀ (mode : Mode) (bs : List Byte) (i : Instr) (rest : List Byte), decode mode bs = .instr i rest →
    (∀ d, vectorDst i = some d → d.toNat < nvec mode (encClass i)) ∧
    (∀ r, vectorSrc i = some r → r.toNat < nvec mode (encClass i))

/-- In both modes, for every EVEX form well formed in the mode and every opcode byte and W of the four triples: the
form's bytes with L'L = 11b in place of its length decode, whatever follows, to invalid opcode; and when such bytes
(at most 15) stand at the fetch address away from endAddr and can be fetched, with no debug facility armed, the step
raises #UD. That the bytes after them need not be fetchable is the model's choice (assumption log 12).
(30_encoding.md section 10 (R119); 70_reset_and_hazards.md R262, R270) -/
def Obligations.ReservedVectorLengthIsInvalid : Prop :=
  (∀ (mode : Mode) (op : Byte) (f : EvexForm) (rest : List Byte), f.wellFormed mode = true →
      (evexTriple op f.w).isSome = true → decode mode (encodeEvex op 3#2 f ++ rest) = .invalidOpcode) ∧
    (∀ (s : State) (op : Byte) (f : EvexForm), s.rip ≠ s.cfg.endAddr → f.wellFormed s.cfg.mode = true →
      (evexTriple op f.w).isSome = true → f.len ≤ 15 → NoDebug s.cfg →
      TextAt s.mem (fetchAddress s) (encodeEvex op 3#2 f) → Fetchable s f.len →
      step s = .fault .ud)

/-- In both modes: the legacy opcode 1F with or without the prefix 66, VEX opcode 1F, EVEX 1E with W1 and EVEX 1F with
W0, VEX with another pp or map, EVEX with another pp or map, and the two-byte VEX byte C5 are answered with the
refusal notInGroup, whatever bytes follow. (R123; R94) -/
def Obligations.NeighbouringOpcodesAreOutside : Prop :=
  ∀ (mode : Mode) (bs : List Byte) (v1 v2 p0 p1 p2 op : Byte),
    decode mode (0x0F#8 :: 0x38#8 :: 0x1F#8 :: bs) = .rejected .notInGroup ∧
    decode mode (0x66#8 :: 0x0F#8 :: 0x38#8 :: 0x1F#8 :: bs) = .rejected .notInGroup ∧
    decode mode (0xC4#8 :: v1 :: v2 :: 0x1F#8 :: bs) = .rejected .notInGroup ∧
    (p1.getLsbD 7 = true → decode mode (0x62#8 :: p0 :: p1 :: p2 :: 0x1E#8 :: bs) = .rejected .notInGroup) ∧
    (p1.getLsbD 7 = false → decode mode (0x62#8 :: p0 :: p1 :: p2 :: 0x1F#8 :: bs) = .rejected .notInGroup) ∧
    (v1.extractLsb' 0 5 ≠ 2#5 ∨ v2.extractLsb' 0 2 ≠ 1#2 →
      decode mode (0xC4#8 :: v1 :: v2 :: op :: bs) = .rejected .notInGroup) ∧
    (p0.extractLsb' 0 2 ≠ 2#2 ∨ p1.extractLsb' 0 2 ≠ 1#2 →
      decode mode (0x62#8 :: p0 :: p1 :: p2 :: op :: bs) = .rejected .notInGroup) ∧
    decode mode (0xC5#8 :: bs) = .rejected .notInGroup

/-- In both modes: F2 or F3 before a legacy form, whatever its other prefixes admitted in the mode, is refused by the
name repBeforeLegacy; bytes that begin with legacy prefix bytes among which one stands twice are refused, whatever
follows; so are bytes that begin with legacy prefix bytes among which two different segment overrides stand. That
the refusal is answered, and not the #UD of R121, also where a LOCK prefix stands among the prefixes, or where 66,
F2 or F3 stands twice before C4 or 62, is the model's reading (assumption log 13). (30_encoding.md section 10
(R124); 30_encoding.md R90, R121) -/
def Obligations.PrefixesNotAdmittedAreRefused : Prop :=
  (∀ (mode : Mode) (op : Byte) (f : LegacyForm) (rest : List Byte), op = 0x1C#8 ∨ op = 0x1D#8 ∨ op = 0x1E#8 →
      f.pfx.wellFormed mode = true → f.pfx.repne = true ∨ f.pfx.rep = true →
      decode mode (encodeLegacy op f ++ rest) = .rejected .repBeforeLegacy) ∧
    (∀ (mode : Mode) (pre mid bs : List Byte) (b : Byte), (∀ x ∈ pre ++ mid, (pfxByte x).isSome = true) →
      (pfxByte b).isSome = true → ∃ r, decode mode (pre ++ b :: (mid ++ b :: bs)) = .rejected r) ∧
    (∀ (mode : Mode) (pre mid bs : List Byte) (x y : Seg), (∀ z ∈ pre ++ mid, (pfxByte z).isSome = true) → x ≠ y →
      ∃ r, decode mode (pre ++ segCode x :: (mid ++ segCode y :: bs)) = .rejected r)

/-- For the six VEX forms and the six EVEX VPABSB and VPABSW forms, exec gives the same outcome for either value of W.
(30_encoding.md section 2 (R82, R83); 93_implementation_defined.md U2) -/
def Obligations.WIsIgnoredWhereWIG : Prop :=
  ∀ (s : State) (b : Bool),
    (∀ c ∈ [Instr.vpabsbVex128, .vpabswVex128, .vpabsdVex128, .vpabsbVex256, .vpabswVex256, .vpabsdVex256],
      ∀ f : VexForm, exec (c { f with w := b }) s = exec (c f) s) ∧
    (∀ c ∈ [Instr.vpabsbEvex128, .vpabsbEvex256, .vpabsbEvex512, .vpabswEvex128, .vpabswEvex256, .vpabswEvex512],
      ∀ f : EvexForm, exec (c { f with w := b }) s = exec (c f) s)

/-- Read as numbers: the destination of a legacy xmm form is 8*REX.R + reg and its source 8*REX.B + rm (R and B 0
without REX); of a VEX form 8*(not R) + reg and 8*(not B) + rm on the stored bits; of an EVEX form 16*(not R') +
8*(not R) + reg and 16*(not X) + 8*(not B) + rm. (30_encoding.md section 8 (R108)) -/
def Obligations.RegisterNumbers : Prop :=
  (∀ (f : LegacyForm) (rm : BitVec 3),
      (legacyDst f).toNat = 8 * (match f.pfx.rex with | some x => x.r.toNat | none => 0) + f.reg.toNat ∧
      (legacySrc f rm).toNat = 8 * (match f.pfx.rex with | some x => x.b.toNat | none => 0) + rm.toNat) ∧
    (∀ (f : VexForm) (rm : BitVec 3),
      (vexDst f).toNat = 8 * (!f.rBar).toNat + f.reg.toNat ∧ (vexSrc f rm).toNat = 8 * (!f.bBar).toNat + rm.toNat) ∧
    (∀ (f : EvexForm) (rm : BitVec 3),
      (evexDst f).toNat = 16 * (!f.rHiBar).toNat + 8 * (!f.rBar).toNat + f.reg.toNat ∧
      (evexSrc f rm).toNat = 16 * (!f.xBar).toNat + 8 * (!f.bBar).toNat + rm.toNat)

/-- As integers modulo 2^AS: in 64-bit mode the RIP-relative form gives (rip + len) + d, every other form gives base +
index * 2^scale + d. AS is 64 in 64-bit mode without 67, else 32; an absent base or index counts 0; d is the
displacement as a signed number, a disp8 multiplied by the scale n, an absent one 0. So only the low AS bits of a
register matter. (30_encoding.md section 7 (R106); 30_encoding.md R103, R104, R105, R112) -/
def Obligations.EffectiveAddressFormula : Prop :=
  ∀ (s : State) (p : Prefixes) (x b : Bool) (len n : Nat) (m : MemRef),
    ((addressSize s.cfg.mode p : Nat) = if s.cfg.mode = .mode64 ∧ p.addr32 = false then 64 else 32) ∧
    (∀ d, s.cfg.mode = .mode64 → m = .dispOnly d →
      ((effectiveAddress s p x b len n m).toNat : Int) =
        ((s.rip.toNat : Int) + len + d.toInt) % 2 ^ addressSize s.cfg.mode p) ∧
    (¬ (s.cfg.mode = .mode64 ∧ ∃ d, m = .dispOnly d) →
      ((effectiveAddress s p x b len n m).toNat : Int) =
        ((match baseReg b m with | some r => ((s.gprReg r).toNat : Int) | none => 0) +
          (match indexReg x m with | some r => ((s.gprReg r).toNat : Int) | none => 0) * 2 ^ (scaleOf m).toNat +
          (match m with
            | .base _ (.d8 v) | .sib _ _ _ (.d8 v) => v.toInt * n
            | .base _ (.d32 v) | .sib _ _ _ (.d32 v) | .dispOnly v | .sibNoBase _ _ v => v.toInt
            | .base _ .d0 | .sib _ _ _ .d0 => 0)) % 2 ^ addressSize s.cfg.mode p)

/-- Without a SIB byte the base is the register B then r/m; with one, the index is the register X then index unless that
is 0100b, which means no index, and the base is the register B then base; with mod 00b and base 101b there is no
base; the disp32-only form has neither. (30_encoding.md section 7 (R104); 30_encoding.md R103) -/
def Obligations.IndexAndBaseRegisters : Prop :=
  (∀ (b : Bool) (rm : BitVec 3) (d : Disp), baseReg b (.base rm d) = some (BitVec.ofBool b ++ rm)) ∧
    (∀ (x : Bool) (rm : BitVec 3) (d : Disp), indexReg x (.base rm d) = none) ∧
    (∀ (b x : Bool) (d : BitVec 32), baseReg b (.dispOnly d) = none ∧ indexReg x (.dispOnly d) = none) ∧
    (∀ (b x : Bool) (sc : BitVec 2) (i r : BitVec 3) (d : Disp) (v : BitVec 32),
      baseReg b (.sib sc i r d) = some (BitVec.ofBool b ++ r) ∧ baseReg b (.sibNoBase sc i v) = none ∧
      (x = false ∧ i = 4#3 → indexReg x (.sib sc i r d) = none ∧ indexReg x (.sibNoBase sc i v) = none) ∧
      (¬ (x = false ∧ i = 4#3) → indexReg x (.sib sc i r d) = some (BitVec.ofBool x ++ i) ∧
        indexReg x (.sibNoBase sc i v) = some (BitVec.ofBool x ++ i)) ∧
      scaleOf (.sib sc i r d) = sc ∧ scaleOf (.sibNoBase sc i v) = sc) ∧
    (∀ (sb : Byte) (b0 b1 b2 b3 : Byte) (bs : List Byte), sb.extractLsb' 0 3 = 5#3 →
      takeSib 0#2 (sb :: b0 :: b1 :: b2 :: b3 :: bs) =
        some (.sibNoBase (sb.extractLsb' 6 2) (sb.extractLsb' 3 3) (b3 ++ b2 ++ b1 ++ b0), bs))

/-- An override prefix names the segment; without one it is SS exactly when the addressing form has a base register and
it is gpr[4] or gpr[5], and DS otherwise; in 64-bit mode an ES, CS, SS or DS override is refused. (30_encoding.md
section 7 (R107)) -/
def Obligations.SegmentOfAMemoryOperand : Prop :=
  ∀ (p : Prefixes) (b : Bool) (m : MemRef),
    (∀ g, p.seg = some g → segmentOf p b m = g) ∧
    (p.seg = none → (segmentOf p b m = .ss ↔ baseReg b m = some 4#4 ∨ baseReg b m = some 5#4)) ∧
    (p.seg = none → segmentOf p b m ≠ .ss → segmentOf p b m = .ds) ∧
    (∀ (g : Seg) (bs : List Byte), g ≠ .fs → g ≠ .gs →
      decode .mode64 (segCode g :: bs) = .rejected .nullSegmentOverride)

/-- N is VL/8 without a broadcast and 4 or 8 bytes for a 32-bit or 64-bit broadcast element; a disp8 counts as the
signed byte times N and a disp32 as the signed number itself, in 64 bits; the legacy and VEX operand addresses use N
= 1 and the EVEX operand address the N of its element width, length and b. (30_encoding.md section 7 (R112)) -/
def Obligations.DisplacementScale : Prop :=
  (∀ w VL, dispScale w VL false = VL / 8) ∧ (∀ VL, dispScale 32 VL true = 4) ∧ (∀ VL, dispScale 64 VL true = 8) ∧
    (∀ (n : Nat) (v : BitVec 8), dispValue n (.d8 v) = BitVec.ofInt 64 (v.toInt * n)) ∧
    (∀ (n : Nat) (v : BitVec 32), dispValue n (.d32 v) = BitVec.ofInt 64 v.toInt) ∧
    (∀ (s : State) (f : LegacyForm) (m : MemRef),
      legacyAddress s f m = operandAddress s f.pfx (legacyX f) (legacyB f) f.len 1 m) ∧
    (∀ (s : State) (f : VexForm) (m : MemRef),
      vexAddress s f m = operandAddress s f.pfx (!f.xBar) (!f.bBar) f.len 1 m) ∧
    (∀ (s : State) (f : EvexForm) (m : MemRef) (w VL : Nat),
      evexAddress w VL s f m = operandAddress s f.pfx (!f.xBar) (!f.bBar) f.len (dispScale w VL f.b) m)

/-- For every number n of bytes, memory, address and i below n, bits 8i+7 to 8i of the loaded 8n-bit value are the byte
at the address plus i. (R51) -/
def Obligations.LoadIsLittleEndian : Prop :=
  ∀ (n : Nat) (m : Memory) (lin i : Nat), i < n →
    (loadLE (8 * n) m lin).extractLsb' (8 * i) 8 = readByte m (lin + i)

/-- In 64-bit mode the linear address is the effective address through CS, DS, ES and SS and is offset by the base,
modulo 2^64, through FS and GS; a range of bytes passes exactly when each byte address is below 2^64 and has bits 63
down to LAW-1 all equal. In 32-bit mode the linear address is the effective address and a range passes exactly when
it does not pass 2^32 - 1. A violation is #SS(0) through SS, else #GP(0). That an address from 2^64 on is not
canonical is the model's choice (assumption log 11). (20_memory.md section 7 (R63)) -/
def Obligations.LinearAddressAndRange : Prop :=
  ∀ (s : State) (seg : Seg) (ea : BitVec 64) (lin n : Nat),
    (s.cfg.mode = .mode32 ∨ (seg ≠ .fs ∧ seg ≠ .gs) → linear s seg ea = ea) ∧
    (s.cfg.mode = .mode64 → (linear s .fs ea).toNat = (s.fsBase.toNat + ea.toNat) % 2 ^ 64 ∧
      (linear s .gs ea).toNat = (s.gsBase.toNat + ea.toNat) % 2 ^ 64) ∧
    (s.cfg.mode = .mode64 → (rangeOk s.cfg lin n = true ↔ ∀ i < n, lin + i < 2 ^ 64 ∧
      ∀ b, s.cfg.law.bits - 1 ≤ b → b < 64 → (lin + i).testBit b = (lin + i).testBit 63)) ∧
    (s.cfg.mode = .mode32 → 0 < n → (rangeOk s.cfg lin n = true ↔ lin + n - 1 ≤ 2 ^ 32 - 1)) ∧
    rangeFault .ss = .ss0 ∧ (seg ≠ .ss → rangeFault seg = .gp0)

/-- The check is never raised unless CR0.AM, EFLAGS.AC and CPL = 3 hold together. Under Never it is false; under MmxOnly
it is an MMX operand at an address that is not a multiple of 8; under SmallOnly an MMX or broadcast operand not a
multiple of its size; under Always any operand not a multiple of its size. (20_memory.md section 4 (R58)) -/
def Obligations.AlignmentCheckPolicies : Prop :=
  ∀ (c : Config) (shape : AcShape) (lin n : Nat),
    (NoAlignCheck c → alignCheck c shape lin n = false) ∧
    (¬ NoAlignCheck c →
      (c.acPolicy = .never → alignCheck c shape lin n = false) ∧
      (c.acPolicy = .mmxOnly → (alignCheck c shape lin n = true ↔ shape = .mmx ∧ lin % 8 ≠ 0)) ∧
      (c.acPolicy = .smallOnly →
        (alignCheck c shape lin n = true ↔ (shape = .mmx ∨ shape = .broadcast) ∧ lin % n ≠ 0)) ∧
      (c.acPolicy = .always → (alignCheck c shape lin n = true ↔ lin % n ≠ 0)))

/-- For each width w of 8, 16, 32, 64: the most negative pattern maps to itself; 0 maps to 0; applying ABS twice is
applying it once; and ABS(v) is (v XOR m) - m with m made of copies of the sign bit. (40_pabs_legacy.md section 1
(R140)) -/
def Obligations.AbsCornerCases : Prop :=
  ∀ w ∈ [8, 16, 32, 64],
    absW w (BitVec.ofNat w (2 ^ (w - 1))) = BitVec.ofNat w (2 ^ (w - 1)) ∧ absW w 0 = 0 ∧
    (∀ v : BitVec w, absW w (absW w v) = absW w v) ∧
    (∀ v : BitVec w, absW w v = (v ^^^ (if v.msb then BitVec.allOnes w else 0)) -
      (if v.msb then BitVec.allOnes w else 0))

/-- For w of 8, 16, 32, 64, any number n of lanes and any n*w-bit value: lane j of the result is, read unsigned, the
magnitude of lane j of the source read signed, so two sources that agree on lane j give results that agree on lane
j. (R141) -/
def Obligations.PackedAbsLaneByLane : Prop :=
  ∀ w ∈ [8, 16, 32, 64], ∀ (n : Nat) (src src' : BitVec (w * n)) (j : Nat), j < n →
    ((packedAbs w (w * n) src).extractLsb' (w * j) w).toNat = (src.extractLsb' (w * j) w).toInt.natAbs ∧
    (src.extractLsb' (w * j) w = src'.extractLsb' (w * j) w →
      (packedAbs w (w * n) src).extractLsb' (w * j) w = (packedAbs w (w * n) src').extractLsb' (w * j) w)

/-- When no check of R218 stops it, exec of each of the three MMX forms with a register source answers a next state:
each lane of mm[d] is the magnitude of the lane of mm[s], rip advances by the length, and every other mm, every zmm,
k and gpr register, the segment bases, the configuration and every byte of memory are unchanged. (40_pabs_legacy.md
section 3 (R143, R145, R147); 60_exceptions.md R218) -/
def Obligations.MmxFormsRegister : Prop :=
  MmxRegRuns .pabsbMm 8 ∧ MmxRegRuns .pabswMm 16 ∧ MmxRegRuns .pabsdMm 32

/-- The same for a memory source of 8 bytes at the linear address of the operand, of any alignment, when the range
check, Access and the alignment check pass and the bytes are ordinary memory. (40_pabs_legacy.md section 3 (R143,
R145, R147); 20_memory.md R52, R55, R56, R60) -/
def Obligations.MmxFormsMemory : Prop :=
  MmxMemRuns .pabsbMm 8 ∧ MmxMemRuns .pabswMm 16 ∧ MmxMemRuns .pabsdMm 32

/-- When no check of R220 stops it, exec of each of the three legacy xmm forms with a register source answers a next
state: each lane of zmm[d][127:0] is the magnitude of the lane of the source, bits 128 and up of zmm[d] are kept,
rip advances by the length, and everything else is unchanged. (40_pabs_legacy.md section 3 (R144, R146, R148);
60_exceptions.md R220) -/
def Obligations.XmmFormsRegister : Prop :=
  XmmRegRuns .pabsbXmm 8 ∧ XmmRegRuns .pabswXmm 16 ∧ XmmRegRuns .pabsdXmm 32

/-- The same for a memory source of 16 bytes of ordinary memory at a linear address that is a multiple of 16 and passes
the range check and Access, whatever the alignment-check policy. (40_pabs_legacy.md section 3 (R144, R146, R148);
20_memory.md R52, R55, R56, R57, R60) -/
def Obligations.XmmFormsMemory : Prop :=
  XmmMemRuns .pabsbXmm 8 ∧ XmmMemRuns .pabswXmm 16 ∧ XmmMemRuns .pabsdXmm 32

/-- When no check of R221 stops it, exec of each of the six VEX forms with a register source answers a next state: each
lane of the low VL bits of zmm[d] is the magnitude of the lane of the source, the bits from VL up are zero, rip
advances by the length, and everything else is unchanged. (41_vpabs_vex.md (R160 to R166); 60_exceptions.md R221) -/
def Obligations.VexFormsRegister : Prop :=
  VexRegRuns .vpabsbVex128 8 128 .avx ∧ VexRegRuns .vpabswVex128 16 128 .avx ∧ VexRegRuns .vpabsdVex128 32 128 .avx ∧
    VexRegRuns .vpabsbVex256 8 256 .avx2 ∧ VexRegRuns .vpabswVex256 16 256 .avx2 ∧
    VexRegRuns .vpabsdVex256 32 256 .avx2

/-- The same for a memory source of 16 or 32 bytes, of any alignment, when the range check, Access and the alignment
check pass and the bytes are ordinary memory. (41_vpabs_vex.md (R160 to R166); 20_memory.md R52, R55, R56, R60) -/
def Obligations.VexFormsMemory : Prop :=
  VexMemRuns .vpabsbVex128 8 128 .avx ∧ VexMemRuns .vpabswVex128 16 128 .avx ∧ VexMemRuns .vpabsdVex128 32 128 .avx ∧
    VexMemRuns .vpabsbVex256 8 256 .avx2 ∧ VexMemRuns .vpabswVex256 16 256 .avx2 ∧
    VexMemRuns .vpabsdVex256 32 256 .avx2

/-- When no check of R222 stops it, exec of each of the twelve EVEX forms with a register source and b = 0 answers a
next state: an element whose mask bit is 1 (every element for aaa = 000b) is the magnitude of the source element,
another is kept (z = 0) or zero (z = 1), the bits from VL up are zero whatever the mask, rip advances by the length,
and everything else is unchanged. (42_vpabs_evex.md (R180 to R184); 42_vpabs_evex.md (R185 to R196);
60_exceptions.md R222) -/
def Obligations.EvexFormsRegister : Prop :=
  EvexRegRuns .vpabsbEvex128 8 128 [.avx512vl, .avx512bw] ∧
    EvexRegRuns .vpabsbEvex256 8 256 [.avx512vl, .avx512bw] ∧
    EvexRegRuns .vpabsbEvex512 8 512 [.avx512bw] ∧
    EvexRegRuns .vpabswEvex128 16 128 [.avx512vl, .avx512bw] ∧
    EvexRegRuns .vpabswEvex256 16 256 [.avx512vl, .avx512bw] ∧
    EvexRegRuns .vpabswEvex512 16 512 [.avx512bw] ∧
    EvexRegRuns .vpabsdEvex128 32 128 [.avx512vl, .avx512f] ∧
    EvexRegRuns .vpabsdEvex256 32 256 [.avx512vl, .avx512f] ∧
    EvexRegRuns .vpabsdEvex512 32 512 [.avx512f] ∧
    EvexRegRuns .vpabsqEvex128 64 128 [.avx512vl, .avx512f] ∧
    EvexRegRuns .vpabsqEvex256 64 256 [.avx512vl, .avx512f] ∧
    EvexRegRuns .vpabsqEvex512 64 512 [.avx512f]

/-- The same for a memory source of VL/8 bytes, of any alignment, b = 0, when the whole operand passes the range check,
Access and the alignment check and is ordinary memory, without fault suppression or without a write-mask. That with
suppress = true and no write-mask the whole operand is checked as one access is the model's choice (assumption log
16). (42_vpabs_evex.md (R180 to R184); 42_vpabs_evex.md (R185 to R196); 20_memory.md R52, R55, R56, R60;
60_exceptions.md R236) -/
def Obligations.EvexFormsMemory : Prop :=
  EvexMemRuns .vpabsbEvex128 8 128 [.avx512vl, .avx512bw] ∧
    EvexMemRuns .vpabsbEvex256 8 256 [.avx512vl, .avx512bw] ∧
    EvexMemRuns .vpabsbEvex512 8 512 [.avx512bw] ∧
    EvexMemRuns .vpabswEvex128 16 128 [.avx512vl, .avx512bw] ∧
    EvexMemRuns .vpabswEvex256 16 256 [.avx512vl, .avx512bw] ∧
    EvexMemRuns .vpabswEvex512 16 512 [.avx512bw] ∧
    EvexMemRuns .vpabsdEvex128 32 128 [.avx512vl, .avx512f] ∧
    EvexMemRuns .vpabsdEvex256 32 256 [.avx512vl, .avx512f] ∧
    EvexMemRuns .vpabsdEvex512 32 512 [.avx512f] ∧
    EvexMemRuns .vpabsqEvex128 64 128 [.avx512vl, .avx512f] ∧
    EvexMemRuns .vpabsqEvex256 64 256 [.avx512vl, .avx512f] ∧
    EvexMemRuns .vpabsqEvex512 64 512 [.avx512f]

/-- With suppress = true, a write-mask and b = 0, exec answers a next state with that effect as soon as the elements
whose mask bit is 1 can be read (range, Access, ordinary memory): bytes of masked-off elements are neither checked
nor read. That the alignment check is made on the whole operand is the model's choice (assumption log 16).
(60_exceptions.md section 4 (R236); 42_vpabs_evex.md (R180 to R196); 20_memory.md R60) -/
def Obligations.EvexFormsSuppressedMemory : Prop :=
  EvexSuppressedRuns .vpabsbEvex128 8 128 [.avx512vl, .avx512bw] ∧
    EvexSuppressedRuns .vpabsbEvex256 8 256 [.avx512vl, .avx512bw] ∧
    EvexSuppressedRuns .vpabsbEvex512 8 512 [.avx512bw] ∧
    EvexSuppressedRuns .vpabswEvex128 16 128 [.avx512vl, .avx512bw] ∧
    EvexSuppressedRuns .vpabswEvex256 16 256 [.avx512vl, .avx512bw] ∧
    EvexSuppressedRuns .vpabswEvex512 16 512 [.avx512bw] ∧
    EvexSuppressedRuns .vpabsdEvex128 32 128 [.avx512vl, .avx512f] ∧
    EvexSuppressedRuns .vpabsdEvex256 32 256 [.avx512vl, .avx512f] ∧
    EvexSuppressedRuns .vpabsdEvex512 32 512 [.avx512f] ∧
    EvexSuppressedRuns .vpabsqEvex128 64 128 [.avx512vl, .avx512f] ∧
    EvexSuppressedRuns .vpabsqEvex256 64 256 [.avx512vl, .avx512f] ∧
    EvexSuppressedRuns .vpabsqEvex512 64 512 [.avx512f]

/-- For the six EVEX VPABSD and VPABSQ forms with a memory source and b = 1, exec answers a next state with that effect,
every source element being the one 4- or 8-byte element at the operand's address, when that element can be read
(range, Access, alignment check, ordinary memory), or when suppress is true and no mask bit below KL is 1.
(42_vpabs_evex.md section 1 (R182); 42_vpabs_evex.md (R191 to R196); 20_memory.md R53, R60; 60_exceptions.md R236) -/
def Obligations.EvexFormsBroadcast : Prop :=
  EvexBroadcastRuns .vpabsdEvex128 32 128 [.avx512vl, .avx512f] ∧
    EvexBroadcastRuns .vpabsdEvex256 32 256 [.avx512vl, .avx512f] ∧
    EvexBroadcastRuns .vpabsdEvex512 32 512 [.avx512f] ∧
    EvexBroadcastRuns .vpabsqEvex128 64 128 [.avx512vl, .avx512f] ∧
    EvexBroadcastRuns .vpabsqEvex256 64 256 [.avx512vl, .avx512f] ∧
    EvexBroadcastRuns .vpabsqEvex512 64 512 [.avx512f]

/-- For the three MMX forms: #UD with LOCK, without SSSE3 or with CR0.EM; else #NM with CR0.TS; else #MF with a pending
x87 exception; then for a memory operand of 8 bytes the range fault, the page fault of Access and #AC under
acPolicy, in this order and with no alignment #GP. (R218; R224) -/
def Obligations.MmxFormsFault : Prop :=
  MmxFaults .pabsbMm ∧ MmxFaults .pabswMm ∧ MmxFaults .pabsdMm

/-- For the three legacy xmm forms: #UD with LOCK, without SSSE3, with CR0.EM or without CR4.OSFXSR; else #NM with
CR0.TS; then for a memory operand of 16 bytes the range fault, #GP(0) if the address is not a multiple of 16, the
page fault of Access; never #AC. (R220; R57) -/
def Obligations.XmmFormsFault : Prop :=
  XmmFaults .pabsbXmm ∧ XmmFaults .pabswXmm ∧ XmmFaults .pabsdXmm

/-- For the six VEX forms: #UD with a LOCK, 66, F2, F3 or REX prefix before the VEX prefix, with vvvv not 1111b, without
the row's feature, without CR4.OSXSAVE or without XCR0 bits 1 and 2; else #NM with CR0.TS; then for a memory operand
the range fault, the page fault, and #AC only under acPolicy Always; no alignment #GP. (R221) -/
def Obligations.VexFormsFault : Prop :=
  VexFaults .vpabsbVex128 128 .avx ∧ VexFaults .vpabswVex128 128 .avx ∧ VexFaults .vpabsdVex128 128 .avx ∧
    VexFaults .vpabsbVex256 256 .avx2 ∧ VexFaults .vpabswVex256 256 .avx2 ∧ VexFaults .vpabsdVex256 256 .avx2

/-- For the twelve EVEX forms: #UD with a stray prefix, a wrong fixed bit, vvvv not 1111b, V' not 1, z = 1 with aaa =
000b, b = 1 with a register source or on VPABSB or VPABSW, a missing feature of the row, or a missing enable of
OSXSAVE and XCR0 bits 1, 2, 5, 6, 7; else #NM with CR0.TS. (R118; R120; R122; R126) -/
def Obligations.EvexFormsFault : Prop :=
  EvexFaults .vpabsbEvex128 false [.avx512vl, .avx512bw] ∧
    EvexFaults .vpabsbEvex256 false [.avx512vl, .avx512bw] ∧
    EvexFaults .vpabsbEvex512 false [.avx512bw] ∧
    EvexFaults .vpabswEvex128 false [.avx512vl, .avx512bw] ∧
    EvexFaults .vpabswEvex256 false [.avx512vl, .avx512bw] ∧
    EvexFaults .vpabswEvex512 false [.avx512bw] ∧
    EvexFaults .vpabsdEvex128 true [.avx512vl, .avx512f] ∧
    EvexFaults .vpabsdEvex256 true [.avx512vl, .avx512f] ∧
    EvexFaults .vpabsdEvex512 true [.avx512f] ∧
    EvexFaults .vpabsqEvex128 true [.avx512vl, .avx512f] ∧
    EvexFaults .vpabsqEvex256 true [.avx512vl, .avx512f] ∧
    EvexFaults .vpabsqEvex512 true [.avx512f]

/-- For the twelve EVEX forms with a memory source that no earlier check stops: the range fault, the page fault and #AC
under acPolicy, in this order, of the whole operand whatever the mask is when suppress is false or there is no
write-mask, and of the one broadcast element when b = 1 and suppress is false or some mask bit is 1. That with
suppress = true and no write-mask the whole operand is checked as one access is the model's choice (assumption log
16). (60_exceptions.md section 3 (R222); 60_exceptions.md section 4 (R236)) -/
def Obligations.EvexFormsMemoryFault : Prop :=
  EvexMemFaults .vpabsbEvex128 8 128 false [.avx512vl, .avx512bw] ∧
    EvexMemFaults .vpabsbEvex256 8 256 false [.avx512vl, .avx512bw] ∧
    EvexMemFaults .vpabsbEvex512 8 512 false [.avx512bw] ∧
    EvexMemFaults .vpabswEvex128 16 128 false [.avx512vl, .avx512bw] ∧
    EvexMemFaults .vpabswEvex256 16 256 false [.avx512vl, .avx512bw] ∧
    EvexMemFaults .vpabswEvex512 16 512 false [.avx512bw] ∧
    EvexMemFaults .vpabsdEvex128 32 128 true [.avx512vl, .avx512f] ∧
    EvexMemFaults .vpabsdEvex256 32 256 true [.avx512vl, .avx512f] ∧
    EvexMemFaults .vpabsdEvex512 32 512 true [.avx512f] ∧
    EvexMemFaults .vpabsqEvex128 64 128 true [.avx512vl, .avx512f] ∧
    EvexMemFaults .vpabsqEvex256 64 256 true [.avx512vl, .avx512f] ∧
    EvexMemFaults .vpabsqEvex512 64 512 true [.avx512f]

/-- With suppress = true, a write-mask and b = 0: a range violation of an element whose mask bit is 1 raises the range
fault; else the first page fault among those elements, in rising order, is raised; else, with some mask bit 1, #AC
under acPolicy for the whole operand. The order among elements and the whole-operand alignment check are the model's
choice (assumption log 16). (60_exceptions.md section 4 (R236); 60_exceptions.md R238) -/
def Obligations.EvexFormsSuppressedFault : Prop :=
  EvexSuppressedFaults .vpabsbEvex128 8 128 [.avx512vl, .avx512bw] ∧
    EvexSuppressedFaults .vpabsbEvex256 8 256 [.avx512vl, .avx512bw] ∧
    EvexSuppressedFaults .vpabsbEvex512 8 512 [.avx512bw] ∧
    EvexSuppressedFaults .vpabswEvex128 16 128 [.avx512vl, .avx512bw] ∧
    EvexSuppressedFaults .vpabswEvex256 16 256 [.avx512vl, .avx512bw] ∧
    EvexSuppressedFaults .vpabswEvex512 16 512 [.avx512bw] ∧
    EvexSuppressedFaults .vpabsdEvex128 32 128 [.avx512vl, .avx512f] ∧
    EvexSuppressedFaults .vpabsdEvex256 32 256 [.avx512vl, .avx512f] ∧
    EvexSuppressedFaults .vpabsdEvex512 32 512 [.avx512f] ∧
    EvexSuppressedFaults .vpabsqEvex128 64 128 [.avx512vl, .avx512f] ∧
    EvexSuppressedFaults .vpabsqEvex256 64 256 [.avx512vl, .avx512f] ∧
    EvexSuppressedFaults .vpabsqEvex512 64 512 [.avx512f]

/-- For each of the 24 forms with a memory source that no check before the read stops: if the operand passes the range
check, the alignment required, Access and the alignment check, but is not all ordinary memory, exec is refused by
the name deviceRead; for the EVEX forms this is the whole operand, the one broadcast element, or with suppress =
true and a write-mask some element whose mask bit is 1. That R60 asks a launch premise that the memory read is
ordinary is the spec's; the refusal without it is the model's choice (assumption log 21). (20_memory.md section 5
(R60); 70_reset_and_hazards.md section 2 (R262); 92_eei_decisions.md D12) -/
def Obligations.DeviceReadsAreRefused : Prop :=
  MmxDeviceRefused .pabsbMm ∧ MmxDeviceRefused .pabswMm ∧ MmxDeviceRefused .pabsdMm ∧
    XmmDeviceRefused .pabsbXmm ∧ XmmDeviceRefused .pabswXmm ∧ XmmDeviceRefused .pabsdXmm ∧
    VexDeviceRefused .vpabsbVex128 128 .avx ∧ VexDeviceRefused .vpabswVex128 128 .avx ∧
    VexDeviceRefused .vpabsdVex128 128 .avx ∧
    VexDeviceRefused .vpabsbVex256 256 .avx2 ∧ VexDeviceRefused .vpabswVex256 256 .avx2 ∧
    VexDeviceRefused .vpabsdVex256 256 .avx2 ∧
    EvexDeviceRefused .vpabsbEvex128 8 128 false [.avx512vl, .avx512bw] ∧
    EvexDeviceRefused .vpabsbEvex256 8 256 false [.avx512vl, .avx512bw] ∧
    EvexDeviceRefused .vpabsbEvex512 8 512 false [.avx512bw] ∧
    EvexDeviceRefused .vpabswEvex128 16 128 false [.avx512vl, .avx512bw] ∧
    EvexDeviceRefused .vpabswEvex256 16 256 false [.avx512vl, .avx512bw] ∧
    EvexDeviceRefused .vpabswEvex512 16 512 false [.avx512bw] ∧
    EvexDeviceRefused .vpabsdEvex128 32 128 true [.avx512vl, .avx512f] ∧
    EvexDeviceRefused .vpabsdEvex256 32 256 true [.avx512vl, .avx512f] ∧
    EvexDeviceRefused .vpabsdEvex512 32 512 true [.avx512f] ∧
    EvexDeviceRefused .vpabsqEvex128 64 128 true [.avx512vl, .avx512f] ∧
    EvexDeviceRefused .vpabsqEvex256 64 256 true [.avx512vl, .avx512f] ∧
    EvexDeviceRefused .vpabsqEvex512 64 512 true [.avx512f]

/-- For each of the six VEX and twelve EVEX forms, every state and every other field: if vvvv is not 1111b, exec answers
the fault #UD. (R117; R212) -/
def Obligations.ReservedVvvvIsInvalidOpcode : Prop :=
  ∀ s : State,
    (∀ c ∈ [Instr.vpabsbVex128, .vpabswVex128, .vpabsdVex128, .vpabsbVex256, .vpabswVex256, .vpabsdVex256],
      ∀ f : VexForm, f.vvvv ≠ 15#4 → exec (c f) s = .fault .ud) ∧
    (∀ c ∈ [Instr.vpabsbEvex128, .vpabsbEvex256, .vpabsbEvex512, .vpabswEvex128, .vpabswEvex256, .vpabswEvex512,
      .vpabsdEvex128, .vpabsdEvex256, .vpabsdEvex512, .vpabsqEvex128, .vpabsqEvex256, .vpabsqEvex512],
      ∀ f : EvexForm, f.vvvv ≠ 15#4 → exec (c f) s = .fault .ud)

/-- For every form with a LOCK prefix, and every VEX or EVEX form with 66, F2, F3 or REX before it, in every state, exec
answers the fault #UD. (R121) -/
def Obligations.LockAndStrayPrefixesAreInvalidOpcode : Prop :=
  ∀ (i : Instr) (s : State),
    ((prefixesOf i).lock = true → exec i s = .fault .ud) ∧
    (encClass i ≠ .legacy →
      (prefixesOf i).opsize = true ∨ (prefixesOf i).repne = true ∨ (prefixesOf i).rep = true ∨
        (prefixesOf i).rex.isSome = true → exec i s = .fault .ud)

/-- For each of the 24 forms and every state: if some CPUID flag of its row is false, exec answers the fault #UD. (R219) -/
def Obligations.MissingFeatureIsInvalidOpcode : Prop :=
  ∀ (i : Instr) (s : State), (∃ x ∈ rowFeatures i, s.cfg.feat.has x = false) → exec i s = .fault .ud

/-- For each of the 24 forms and every state with CR0.TS set: exec answers #NM, unless the same form in the same state
but with CR0.TS clear answers #UD, and then it answers #UD too. (R223) -/
def Obligations.TaskSwitchedIsDeviceNotAvailable : Prop :=
  ∀ (i : Instr) (s : State), s.cfg.env.cr0Ts = true →
    (exec i { s with cfg := { s.cfg with env := { s.cfg.env with cr0Ts := false } } } = .fault .ud →
      exec i s = .fault .ud) ∧
    (exec i { s with cfg := { s.cfg with env := { s.cfg.env with cr0Ts := false } } } ≠ .fault .ud →
      exec i s = .fault .nm)

/-- Away from endAddr and with no debug facility armed, when the fetched bytes decode to an instruction i, step is exec
of i in the same state, and i is well formed in the mode. That this holds too where the fetch stopped early, at a
byte after the instruction that cannot be fetched, is the model's choice (assumption log 12).
(70_reset_and_hazards.md section 3 (R270); 70_reset_and_hazards.md R262) -/
def Obligations.StepRunsTheDecodedInstruction : Prop :=
  ∀ (s : State) (i : Instr) (rest : List Byte), s.rip ≠ s.cfg.endAddr → NoDebug s.cfg →
    decode s.cfg.mode (fetch s).1 = .instr i rest → i.wellFormed s.cfg.mode = true ∧ step s = exec i s

/-- For every state away from endAddr with no debug facility armed and every well-formed instruction i of at most 15
bytes: if memory holds the bytes of encode i at the fetch address and these bytes can be fetched, step is exec of i,
whatever bytes follow and whether or not those can be fetched. That the bytes after the instruction need not be
fetchable is the model's choice (assumption log 12). (20_memory.md section 9 (R68); 70_reset_and_hazards.md R262,
R270; 30_encoding.md R114) -/
def Obligations.ProgramTextRuns : Prop :=
  ∀ (s : State) (i : Instr), s.rip ≠ s.cfg.endAddr → NoDebug s.cfg → i.wellFormed s.cfg.mode = true → i.len ≤ 15 →
    TextAt s.mem (fetchAddress s) (encode i) → Fetchable s i.len → step s = exec i s

/-- For every state, base and list of well-formed instructions of at most 15 bytes each, under the launch premises
ProgramAt(base, their bytes), Fetchable for all of them, NoDebug and EndsAt(base + their number of bytes): as many
steps as there are instructions give exactly what running the instructions one after another gives, next state,
fault or refusal; and when that is a next state, the run is final there (rip = endAddr). That no byte after the last
instruction need be fetchable is the model's choice (assumption log 12). (70_reset_and_hazards.md section 2 (R262,
R263); 70_reset_and_hazards.md section 3 (R268, R270); 30_encoding.md R114, R115) -/
def Obligations.LaunchedTextRunsInOrder : Prop :=
  ∀ (s : State) (base : BitVec 64) (is : List Instr),
    (∀ i ∈ is, i.wellFormed s.cfg.mode = true ∧ i.len ≤ 15) → ProgramAt s base (is.flatMap encode) →
    Fetchable s (is.flatMap encode).length → NoDebug s.cfg →
    s.cfg.endAddr = base + BitVec.ofNat 64 (is.flatMap encode).length →
    Sys2Proof.core.run is.length s = execAll is s ∧ ∀ t, execAll is s = .next t → SafeRun s is.length t

/-- In every state whose rip is endAddr, step answers the same state. That a final state stays as it is is the model's
choice (assumption log 9); that no fetch is made is the spec's. (70_reset_and_hazards.md section 3 (R268, R270)) -/
def Obligations.EndAddressIsFinal : Prop :=
  ∀ s : State, Final s → step s = .next s

/-- In every state away from endAddr in which a breakpoint, single-step or trace facility is armed, step is refused by
the name debugArmed. The refusal is the model's choice (assumption log 20); that the spec models no debug facility
and asks a launch premise that none is armed is the spec's. (60_exceptions.md section 9 (R252);
70_reset_and_hazards.md R262) -/
def Obligations.ArmedDebugIsRefused : Prop :=
  ∀ s : State, ¬ Final s → ¬ NoDebug s.cfg → step s = .refused .debugArmed

/-- Away from endAddr and with no debug facility armed, let k bytes be fetchable and the (k+1)-th not, the k bytes not
deciding the instruction: in 64-bit mode a byte below 2^64 that is not canonical raises #GP(0); a byte that is in
range (and canonical in 64-bit mode) and that Access faults raises #PF with its code; a byte at the top of the
address space is refused; and if fifteen bytes are fetchable and do not hold a whole instruction, #GP(0). That the
bytes after a decided instruction raise nothing, and that the top of the address space is tested before canonicality
and canonicality before Access, is the model's choice (assumption log 12). That the #GP(0) of fifteen bytes comes
before the #UD of the prefixes (R121) that alone make an instruction so long is the model's deduction (assumption
log 12). (20_memory.md section 9 (R68); 30_encoding.md R116; 10_state.md R27) -/
def Obligations.FetchFaults : Prop :=
  ∀ (s : State) (k : Nat), s.rip ≠ s.cfg.endAddr → NoDebug s.cfg → k ≤ 15 → Fetchable s k →
    decode s.cfg.mode ((List.range k).map fun i => readByte s.mem (fetchAddress s + i)) = .truncated →
    (k = 15 → step s = .fault .gp0) ∧
    (k < 15 → s.cfg.mode = .mode64 → fetchAddress s + k < 2 ^ 64 → canonical s.cfg.law (fetchAddress s + k) = false →
      step s = .fault .gp0) ∧
    (∀ code, k < 15 → fetchAddress s + k < (if s.cfg.mode = .mode64 then 2 ^ 64 else 2 ^ 32) →
      (s.cfg.mode = .mode64 → canonical s.cfg.law (fetchAddress s + k) = true) →
      accessCheck s.cfg .fetch (fetchAddress s + k) 1 = some code → step s = .fault (.pf code)) ∧
    (k < 15 → fetchAddress s + k = (if s.cfg.mode = .mode64 then 2 ^ 64 else 2 ^ 32) →
      step s = .refused .pastTop)

/-- For every state and every step that answers a next state: every byte of memory, every opmask and general register,
both segment bases and the whole configuration (mode, features, enables) are as before; at most one of the vector
and MMX registers differs; and rip advances by the length, 1 to 15, of a decoded instruction, unless the state was
final and did not change at all. (20_memory.md R60; 10_state.md R25, R26, R27, R29, R30; 00_scope.md R8) -/
def Obligations.StepLeavesSystemStateAlone : Prop :=
  ∀ s t : State, step s = .next t →
    SameSystem s t ∧
    ((∀ i, t.zmmReg i = s.zmmReg i) ∨ ((∃ d, ∀ i, i ≠ d → t.zmmReg i = s.zmmReg i) ∧ ∀ i, t.mmReg i = s.mmReg i)) ∧
    ((∀ i, t.mmReg i = s.mmReg i) ∨ (∃ d, ∀ i, i ≠ d → t.mmReg i = s.mmReg i)) ∧
    ((Final s ∧ t = s) ∨
      ∃ i rest, decode s.cfg.mode (fetch s).1 = .instr i rest ∧ 1 ≤ i.len ∧ i.len ≤ 15 ∧
        t.rip = s.rip + BitVec.ofNat 64 i.len)

/-- For every state, base and bytes: if ProgramAt(base, bytes) holds, then after any number of steps that answer next
states memory still holds these bytes from base on (TextFixed). (70_reset_and_hazards.md section 2 (R262);
20_memory.md R60, R69) -/
def Obligations.ProgramTextStaysFixed : Prop :=
  ∀ (s : State) (base : BitVec 64) (bytes : List Byte), ProgramAt s base bytes → TextFixed s base bytes

/-- For every state with a coherent feature set in which memory is in canonical form, all bits of the vector registers
above the width R7 gives to the features (128, 256, 512) are 0, and registers 16 to 31 are 0 without AVX512F: every
step that answers a next state leads to such a state. This is why the model may keep 512-bit registers always
(assumption log 3). (00_scope.md R7; 10_state.md R20, R21, R22) -/
def Obligations.StepKeepsTheInvariant : Prop :=
  ∀ s t : State, Inv s → step s = .next t → Inv t

/-- State.reset meets the invariant of StepKeepsTheInvariant. The values in State.reset are the model's choice
(assumption log 4 to 7). (10_state.md section 11 (R33); 00_scope.md R7) -/
def Obligations.ResetMeetsTheInvariant : Prop :=
  Inv State.reset

/-- The model's choice (assumption log 4 to 8, 20, 21), the spec stating no reset value: every zmm, mm, k and general
register and both segment bases are 0, rip is FFFFFFF0H, every byte of memory reads 0, OsEnabled and NoAlignCheck
hold, the mode is 64-bit mode, all six features are on, no debug facility is armed, every address is ordinary
memory, and the run is not already final. (10_state.md section 11 (R33); 70_reset_and_hazards.md R264) -/
def Obligations.ResetState : Prop :=
  (∀ i, State.reset.zmmReg i = 0) ∧ (∀ i, State.reset.mmReg i = 0) ∧ (∀ i, State.reset.kReg i = 0) ∧
    (∀ i, State.reset.gprReg i = 0) ∧ State.reset.fsBase = 0 ∧ State.reset.gsBase = 0 ∧
    State.reset.rip = 0xFFFFFFF0#64 ∧ (∀ a, readByte State.reset.mem a = 0) ∧ OsEnabled State.reset.cfg.env ∧
    NoAlignCheck State.reset.cfg ∧ State.reset.cfg.mode = .mode64 ∧
    (∀ x, State.reset.cfg.feat.has x = true) ∧ NoDebug State.reset.cfg ∧
    (∀ lin n, ordinary State.reset.cfg lin n = true) ∧ ¬ Final State.reset

/-- For every state in 32-bit mode and every step that answers a next state, vector registers 8 to 31 are unchanged; in
64-bit mode without AVX512F and AVX512BW, registers 16 to 31 are unchanged. (10_state.md R21; 30_encoding.md R95,
R98) -/
def Obligations.Mode32StepsLeaveHighRegistersAlone : Prop :=
  ∀ s t : State, step s = .next t →
    (s.cfg.mode = .mode32 → ∀ i : BitVec 5, 8 ≤ i.toNat → t.zmmReg i = s.zmmReg i) ∧
    (s.cfg.feat.avx512f = false → s.cfg.feat.avx512bw = false →
      ∀ i : BitVec 5, 16 ≤ i.toNat → t.zmmReg i = s.zmmReg i)

/-- For each form, state and privilege level p: if the source is a register, or if Access answers every data read alike
at the two levels and alignment checking is on at both or at neither, then exec with the level set to p faults with
the same fault or refuses alike, or gives the same next state but for the level itself. That Access is a table in
which the level, and no other field of env, decides is the model's choice (assumption log 2). (60_exceptions.md
section 8 (R247); 10_state.md R29; 20_memory.md R58, R62) -/
def Obligations.PrivilegeDoesNotMatter : Prop :=
  ∀ (i : Instr) (s : State) (p : BitVec 2),
    (∃ rm, sourceOf i = .reg rm) ∨
      ((∀ lin n, accessCheck (withCpl s p).cfg .dataRead lin n = accessCheck s.cfg .dataRead lin n) ∧
        alignmentCheckingOn (withCpl s p).cfg.env = alignmentCheckingOn s.cfg.env) →
    match exec i s, exec i (withCpl s p) with
    | .next t, .next t' => t' = withCpl t p
    | .fault e, .fault e' => e = e'
    | .refused r, .refused r' => r = r'
    | _, _ => False

/-- For every configuration, kind, linear address and width: with one row in the table, Access answers the code of the
row exactly when the row names the kind, the current privilege level, an interval that holds the address, and the
width, and Ok otherwise; and Access answers alike under two records env with the same privilege level. The table is
the model's choice (assumption log 2). (10_state.md section 7 (R29); 20_memory.md section 7 (R62); 60_exceptions.md
R247) -/
def Obligations.AccessUsesThePrivilegeLevel : Prop :=
  ∀ (c : Config) (kind : AccessKind) (lin n : Nat),
    (∀ e, c.access = [e] → (accessCheck c kind lin n =
      if e.kind = kind ∧ c.env.cpl ∈ e.cpls ∧ e.first ≤ lin ∧ lin ≤ e.last ∧ e.width = n then some e.code else none)) ∧
    (∀ env : Env, env.cpl = c.env.cpl → accessCheck { c with env := env } kind lin n = accessCheck c kind lin n)

/-- For each of the twelve EVEX forms, of vector length VL and element width w: two states that differ only in the
opmask registers, whose bits below KL = VL/w agree in the selected register, give the same fault, or next states
that differ only in the opmask registers. (42_vpabs_evex.md section 1 (R181); 10_state.md R25) -/
def Obligations.MaskBitsAboveKLAreIgnored : Prop :=
  ∀ x ∈ [(Instr.vpabsbEvex128, 16), (.vpabsbEvex256, 32), (.vpabsbEvex512, 64), (.vpabswEvex128, 8),
      (.vpabswEvex256, 16), (.vpabswEvex512, 32), (.vpabsdEvex128, 4), (.vpabsdEvex256, 8), (.vpabsdEvex512, 16),
      (.vpabsqEvex128, 2), (.vpabsqEvex256, 4), (.vpabsqEvex512, 8)],
    ∀ (f : EvexForm) (s : State) (k' : Vector (BitVec 64) 8),
      (∀ j < x.2, ({ s with k := k' }.kReg f.aaa).getLsbD j = (s.kReg f.aaa).getLsbD j) →
      match exec (x.1 f) s, exec (x.1 f) { s with k := k' } with
      | .next t, .next t' => t' = { t with k := k' }
      | .fault e, .fault e' => e = e'
      | .refused r, .refused r' => r = r'
      | _, _ => False

/-- For the six pairs of VEX and EVEX forms of equal width and length, on the same destination and the same source
register (numbers up to 15): if the VEX form answers next t and the EVEX form without a mask and with b = 0 answers
next u from the same state, then every vector register is equal in t and u. (42_vpabs_evex.md section 6 (R197 a)) -/
def Obligations.UnmaskedEvexEqualsVex : Prop :=
  ∀ x ∈ [(Instr.vpabsbVex128, Instr.vpabsbEvex128), (.vpabswVex128, .vpabswEvex128), (.vpabsdVex128, .vpabsdEvex128),
      (.vpabsbVex256, .vpabsbEvex256), (.vpabswVex256, .vpabswEvex256), (.vpabsdVex256, .vpabsdEvex256)],
    ∀ (s t u : State) (f : VexForm) (g : EvexForm) (rf rg : BitVec 3), f.rm = .reg rf → g.rm = .reg rg →
      evexDst g = vexDst f → evexSrc g rg = vexSrc f rf → g.aaa = 0#3 →
      exec (x.1 f) s = .next t → exec (x.2 g) s = .next u → ∀ i, u.zmmReg i = t.zmmReg i

/-- For the three widths, on the same destination and source register: if the legacy form answers next t and the VEX.128
form next u from the same state, the low 128 bits of the destination agree, the legacy form keeps the bits above and
the VEX form zeroes them. (42_vpabs_evex.md section 6 (R197 b); 90_conflicts.md C6) -/
def Obligations.VexAndLegacyAgreeOnTheLowHalf : Prop :=
  ∀ x ∈ [(Instr.pabsbXmm, Instr.vpabsbVex128), (.pabswXmm, .vpabswVex128), (.pabsdXmm, .vpabsdVex128)],
    ∀ (s t u : State) (f : LegacyForm) (g : VexForm) (rf rg : BitVec 3), f.rm = .reg rf → g.rm = .reg rg →
      vexDst g = legacyDst f → vexSrc g rg = legacySrc f rf →
      exec (x.1 f) s = .next t → exec (x.2 g) s = .next u →
      (u.zmmReg (vexDst g)).setWidth 128 = (t.zmmReg (legacyDst f)).setWidth 128 ∧
      (t.zmmReg (legacyDst f)) >>> 128 = (s.zmmReg (legacyDst f)) >>> 128 ∧ (u.zmmReg (vexDst g)) >>> 128 = 0

/-- For each of the 24 forms on registers, without a mask: if it answers next t, and the same form with the destination
as its source answers next u from t, then u holds the registers of t. (42_vpabs_evex.md section 6 (R197 e);
40_pabs_legacy.md R140) -/
def Obligations.AbsoluteValueTwiceIsOnce : Prop :=
  (∀ c ∈ [Instr.pabsbMm, .pabswMm, .pabsdMm],
      ∀ (s t u : State) (f g : LegacyForm) (rm : BitVec 3), f.rm = .reg rm → g.reg = f.reg → g.rm = .reg f.reg →
        exec (c f) s = .next t → exec (c g) t = .next u → ∀ i, u.mmReg i = t.mmReg i) ∧
    (∀ c ∈ [Instr.pabsbXmm, .pabswXmm, .pabsdXmm],
      ∀ (s t u : State) (f g : LegacyForm) (rm rm' : BitVec 3), f.rm = .reg rm → g.rm = .reg rm' →
        legacyDst g = legacyDst f → legacySrc g rm' = legacyDst f →
        exec (c f) s = .next t → exec (c g) t = .next u → ∀ i, u.zmmReg i = t.zmmReg i) ∧
    (∀ c ∈ [Instr.vpabsbVex128, .vpabswVex128, .vpabsdVex128, .vpabsbVex256, .vpabswVex256, .vpabsdVex256],
      ∀ (s t u : State) (f g : VexForm) (rm rm' : BitVec 3), f.rm = .reg rm → g.rm = .reg rm' →
        vexDst g = vexDst f → vexSrc g rm' = vexDst f →
        exec (c f) s = .next t → exec (c g) t = .next u → ∀ i, u.zmmReg i = t.zmmReg i) ∧
    (∀ c ∈ [Instr.vpabsbEvex128, .vpabsbEvex256, .vpabsbEvex512, .vpabswEvex128, .vpabswEvex256, .vpabswEvex512,
      .vpabsdEvex128, .vpabsdEvex256, .vpabsdEvex512, .vpabsqEvex128, .vpabsqEvex256, .vpabsqEvex512],
      ∀ (s t u : State) (f g : EvexForm) (rm rm' : BitVec 3), f.rm = .reg rm → g.rm = .reg rm' →
        f.aaa = 0#3 → g.aaa = 0#3 → evexDst g = evexDst f → evexSrc g rm' = evexDst f →
        exec (c f) s = .next t → exec (c g) t = .next u → ∀ i, u.zmmReg i = t.zmmReg i)

/-- For each of the twelve EVEX forms with a write-mask whose KL low bits are all 0, when exec answers next t: with
merging, the low VL bits of the destination are kept and the bits above are 0; with zeroing, the destination is 0.
(42_vpabs_evex.md section 1 (R184); 42_vpabs_evex.md section 6 (R197 d)) -/
def Obligations.EmptyMaskEffect : Prop :=
  ∀ x ∈ [(Instr.vpabsbEvex128, 128, 16), (.vpabsbEvex256, 256, 32), (.vpabsbEvex512, 512, 64),
      (.vpabswEvex128, 128, 8), (.vpabswEvex256, 256, 16), (.vpabswEvex512, 512, 32),
      (.vpabsdEvex128, 128, 4), (.vpabsdEvex256, 256, 8), (.vpabsdEvex512, 512, 16),
      (.vpabsqEvex128, 128, 2), (.vpabsqEvex256, 256, 4), (.vpabsqEvex512, 512, 8)],
    ∀ (s t : State) (f : EvexForm), f.aaa ≠ 0#3 → (∀ j < x.2.2, (s.kReg f.aaa).getLsbD j = false) →
      exec (x.1 f) s = .next t →
      (f.z = false → t.zmmReg (evexDst f) = ((s.zmmReg (evexDst f)).setWidth x.2.1).setWidth 512) ∧
      (f.z = true → t.zmmReg (evexDst f) = 0)

/-- In 64-bit mode, with memory in its canonical form (part of the invariant of StepKeepsTheInvariant), away from
endAddr, with no debug facility armed and with fifteen fetchable bytes at rip: if the decoder reads i from a table
word, a step from the state in which withFetchWord has stored that word is exec of i in that state, and
withFetchWord changes no byte of memory outside those fifteen and nothing but memory. (20_memory.md R68;
70_reset_and_hazards.md R262, R270) -/
def Obligations.PlacedWordRuns : Prop :=
  ∀ (s : State) (nbits w : Nat) (i : Instr), Memory.wf s.mem = true → s.cfg.mode = .mode64 → s.rip ≠ s.cfg.endAddr →
    NoDebug s.cfg →
    Fetchable s 15 → decodeTableWord nbits w = some i →
    step (s.withFetchWord nbits w) = exec i (s.withFetchWord nbits w) ∧
    (∀ a, a < s.rip.toNat ∨ s.rip.toNat + 15 ≤ a → readByte (s.withFetchWord nbits w).mem a = readByte s.mem a) ∧
    s.withFetchWord nbits w = { s with mem := (s.withFetchWord nbits w).mem }
end

