-- ==== Sys2Proof/Laws/Arith.lean ====
section
/-!
SUPPORT. What the lane operations give, lane by lane and bit by bit.
-/
namespace Sys2Proof.Machine

/-- Bit `i` of a value made of lanes: the bit of the lane it lies in, 0 above the lanes. -/
theorem getLsbD_packLanes (w L : Nat) (f : Nat → BitVec w) (hw : 0 < w) (n i : Nat) :
    (packLanes w L f n).getLsbD i = (decide (i < L) && decide (i < w * n) && (f (i / w)).getLsbD (i % w)) := by
  induction n with
  | zero => simp [packLanes]
  | succ n ih =>
    simp only [packLanes, BitVec.getLsbD_or, ih, BitVec.getLsbD_shiftLeft, BitVec.getLsbD_setWidth]
    have hmod := Nat.mod_lt i hw
    have hdiv := Nat.div_add_mod i w
    rcases Nat.lt_or_ge i L with hL | hL
    · rcases Nat.lt_or_ge i (w * n) with h | h
      · have : i < w * (n + 1) := by rw [Nat.mul_succ]; omega
        simp [hL, h, this]
      · rcases Nat.lt_or_ge i (w * (n + 1)) with h' | h'
        · have hq : i / w = n := by
            apply Nat.div_eq_of_lt_le
            · rw [Nat.mul_comm]; exact h
            · rw [Nat.mul_comm]; exact h'
          have hr : i % w = i - w * n := by rw [hq] at hdiv; omega
          have : i - w * n < L := by omega
          simp [hL, h', Nat.not_lt.mpr h, hq, hr, this]
        · have : w ≤ i - w * n := by rw [Nat.mul_succ] at h'; omega
          simp [Nat.not_lt.mpr h', Nat.not_lt.mpr h, BitVec.getLsbD_of_ge _ _ this]
    · simp [Nat.not_lt.mpr hL]

/-- Lane `j` of a value made of `n` lanes is `f j`. -/
theorem lane_packLanes (w L : Nat) (f : Nat → BitVec w) (n j : Nat) (hj : j < n) (hL : w * n ≤ L) :
    (packLanes w L f n).extractLsb' (w * j) w = f j := by
  rcases Nat.eq_zero_or_pos w with rfl | hw
  · exact Subsingleton.elim _ _
  apply BitVec.eq_of_getLsbD_eq
  intro i hi
  have h1 : w * j + i < w * n := by
    have : w * (j + 1) ≤ w * n := Nat.mul_le_mul_left w hj
    rw [Nat.mul_succ] at this; omega
  have hq : (w * j + i) / w = j := by rw [Nat.mul_add_div hw, Nat.div_eq_of_lt hi, Nat.add_zero]
  have hr : (w * j + i) % w = i := by rw [Nat.mul_add_mod, Nat.mod_eq_of_lt hi]
  rw [BitVec.getLsbD_extractLsb', getLsbD_packLanes _ _ _ hw, hq, hr]
  simp [hi, h1, show w * j + i < L by omega]

/-- Two values made of lanes are equal when the lanes are. -/
theorem packLanes_congr (w L : Nat) (f g : Nat → BitVec w) (n : Nat) (h : ∀ j < n, f j = g j) :
    packLanes w L f n = packLanes w L g n := by
  induction n with
  | zero => rfl
  | succ n ih => simp only [packLanes, ih fun j hj => h j (by omega), h n (by omega)]

/-- R140: `unsigned_w(ABS_w(v)) = |signed_w(v)|`. -/
theorem absW_toNat (w : Nat) (v : BitVec w) : (absW w v).toNat = v.toInt.natAbs := by
  rcases Nat.eq_zero_or_pos w with rfl | hw
  · simp [BitVec.of_length_zero (x := v), absW]
  have hlt := v.isLt
  have hpos : 0 < 2 ^ w := Nat.two_pow_pos w
  unfold absW
  rw [BitVec.toInt_eq_msb_cond]
  cases hm : v.msb with
  | false => simp
  | true =>
    have hne : v.toNat ≠ 0 := by
      intro h0
      rw [BitVec.msb_eq_decide, h0] at hm
      simp at hm
    simp only [if_true, BitVec.toNat_ofNat]
    rw [Nat.mod_eq_of_lt (by omega)]
    omega

/-- R141: lane `j` of `PackedAbs` is `ABS_w` of lane `j` of the source. -/
theorem lane_packedAbs (w L : Nat) (src : BitVec L) (j : Nat) (hj : j < L / w) :
    (packedAbs w L src).extractLsb' (w * j) w = absW w (src.extractLsb' (w * j) w) :=
  lane_packLanes w L _ _ j hj (by rw [Nat.mul_comm]; exact Nat.div_mul_le_self L w)

/-- R183: lane `j` of `MaskedAbs`. -/
theorem lane_maskedAbs (w VL : Nat) (src : BitVec VL) (mask : BitVec 64) (z : Bool) (old : BitVec VL) (j : Nat)
    (hj : j < VL / w) :
    (maskedAbs w VL src mask z old).extractLsb' (w * j) w =
      maskedLane w (src.extractLsb' (w * j) w) (old.extractLsb' (w * j) w) (mask.getLsbD j) z :=
  lane_packLanes w VL _ _ j hj (by rw [Nat.mul_comm]; exact Nat.div_mul_le_self VL w)

@[simp] theorem maskedLane_one (w : Nat) (src old : BitVec w) (z : Bool) :
    maskedLane w src old true z = absW w src := rfl

@[simp] theorem maskedLane_merge (w : Nat) (src old : BitVec w) : maskedLane w src old false false = old := rfl

@[simp] theorem maskedLane_zero (w : Nat) (src old : BitVec w) : maskedLane w src old false true = 0 := rfl

/-- A lane of a wider value that was widened with zeros is the lane of the value. -/
theorem extractLsb'_setWidth_of_le {L K : Nat} (v : BitVec L) (s w : Nat) (h : s + w ≤ K) :
    (v.setWidth K).extractLsb' s w = v.extractLsb' s w := by
  apply BitVec.eq_of_getLsbD_eq
  intro i hi
  simp [show s + i < K by omega]

end Sys2Proof.Machine
end

