-- ==== Sys2Proof/Laws/Decode.lean ====
section
/-!
SUPPORT. The parts of the decoder and the encoder: how each field of an encoding reads back, and how many bytes each
part takes.
-/
namespace Sys2Proof

/-! ### Fields -/

theorem pfxByte_segCode (s : Seg) : pfxByte (segCode s) = some (.seg s) := by cases s <;> rfl

theorem rexOf_rexByte (r : Rex) : rexOf (rexByte r) = r := by
  obtain ⟨w, rr, x, b⟩ := r
  cases w <;> cases rr <;> cases x <;> cases b <;> decide

theorem isRexByte_rexByte (r : Rex) : isRexByte (rexByte r) = true := by
  obtain ⟨w, rr, x, b⟩ := r
  cases w <;> cases rr <;> cases x <;> cases b <;> decide

theorem pfxByte_rexByte (r : Rex) : pfxByte (rexByte r) = none := by
  obtain ⟨w, rr, x, b⟩ := r
  cases w <;> cases rr <;> cases x <;> cases b <;> decide

/-- The three fields of a ModR/M or SIB byte read back. -/
theorem fieldByte_fields : ∀ (hi : BitVec 2) (mid lo : BitVec 3),
    (fieldByte hi mid lo).extractLsb' 6 2 = hi ∧ (fieldByte hi mid lo).extractLsb' 3 3 = mid ∧
      (fieldByte hi mid lo).extractLsb' 0 3 = lo := by decide

/-- A four-byte displacement reads back. -/
theorem takeDisp32_disp32Bytes (v : BitVec 32) (rest : List Byte) :
    takeDisp32 (disp32Bytes v ++ rest) = some (v, rest) := by
  simp only [disp32Bytes, takeDisp32, List.cons_append, List.nil_append, Option.some.injEq, Prod.mk.injEq, and_true]
  apply BitVec.eq_of_getLsbD_eq
  intro i hi
  simp only [BitVec.getLsbD_append, BitVec.getLsbD_extractLsb']
  by_cases h1 : i < 8
  · simp [h1]
  · by_cases h2 : i - 8 < 8
    · simp [h1, h2, show 8 + (i - 8) = i by omega]
    · by_cases h3 : i - 8 - 8 < 8
      · simp [h1, h2, h3, show 16 + (i - 8 - 8) = i by omega]
      · simp [h1, h2, h3, show i - 8 - 8 - 8 < 8 by omega, show 24 + (i - 8 - 8 - 8) = i by omega]

/-- A displacement reads back under the `mod` field that announces it. -/
theorem takeDisp_bytes (d : Disp) (rest : List Byte) : takeDisp d.modField (d.bytes ++ rest) = some (d, rest) := by
  cases d with
  | d0 => rfl
  | d8 v => rfl
  | d32 v => simp [Disp.modField, takeDisp, Disp.bytes, takeDisp32_disp32Bytes]

theorem modField_ne_three (d : Disp) : d.modField ≠ 3#2 := by cases d <;> simp [Disp.modField]

theorem modField_eq_zero (d : Disp) : d.modField = 0#2 ↔ d = .d0 := by cases d <;> simp [Disp.modField]

/-- ModR/M, SIB and displacement read back. -/
theorem takeOperands_encodeOperands (reg : BitVec 3) (rm : RM) (rest : List Byte) (h : rm.wellFormed = true) :
    takeOperands (encodeOperands reg rm ++ rest) = some (reg, rm, rest) := by
  match rm, h with
  | .reg r, _ => simp [encodeOperands, takeOperands, fieldByte_fields, takeRM]
  | .mem (.base r d), h =>
    simp [RM.wellFormed, MemRef.wellFormed] at h
    have : ¬ (d = .d0 ∧ r = 5#3) := fun ⟨h1, h2⟩ => h.2.elim (· h2) (· h1)
    simp [encodeOperands, takeOperands, fieldByte_fields, takeRM, modField_ne_three, h.1, modField_eq_zero, this,
      takeDisp_bytes]
  | .mem (.dispOnly v), _ => simp [encodeOperands, takeOperands, fieldByte_fields, takeRM, takeDisp32_disp32Bytes]
  | .mem (.sib s i b d), h =>
    simp [RM.wellFormed, MemRef.wellFormed] at h
    have : ¬ (d = .d0 ∧ b = 5#3) := fun ⟨h1, h2⟩ => h.elim (· h2) (· h1)
    simp [encodeOperands, takeOperands, fieldByte_fields, takeRM, modField_ne_three, takeSib, modField_eq_zero, this,
      takeDisp_bytes]
  | .mem (.sibNoBase s i v), _ =>
    simp [encodeOperands, takeOperands, fieldByte_fields, takeRM, takeSib, takeDisp32_disp32Bytes]

/-! ### Prefixes -/

/-- A legacy prefix byte that is admitted after `p` is read. -/
theorem scanPrefixes_cons (mode : Mode) (p p' : Prefixes) (b : Byte) (k : PfxByte) (bs : List Byte)
    (h : pfxByte b = some k) (h' : addPrefix mode p k = .ok p') :
    scanPrefixes mode p (b :: bs) = scanPrefixes mode p' bs := by
  rw [scanPrefixes]; simp [h, h']

/-- The bytes of a prefix set, the REX byte apart, read back before a byte that is no legacy prefix. -/
theorem scanPrefixes_encodePrefixes (mode : Mode) (p : Prefixes) (hp : p.wellFormed mode = true) (b : Byte)
    (bs : List Byte) (hb : pfxByte b = none) :
    scanPrefixes mode {} (encodePrefixes { p with rex := none } ++ b :: bs) =
      .ok { p with rex := none } (b :: bs) := by
  obtain ⟨seg, addr32, lock, opsize, repne, rep, rex⟩ := p
  simp only [encodePrefixes, rexBytes, List.append_nil, List.append_assoc]
  have h1 : ∀ l, scanPrefixes mode {} (segBytes seg ++ l) = scanPrefixes mode { seg := seg } l := by
    intro l
    cases seg with
    | none => rfl
    | some s =>
      refine scanPrefixes_cons _ _ _ _ _ _ (pfxByte_segCode s) ?_
      cases mode <;> cases s <;> first | rfl | simp [Prefixes.wellFormed] at hp
  have h2 : ∀ l, scanPrefixes mode { seg := seg } (optByte addr32 0x67#8 ++ l) =
      scanPrefixes mode { seg := seg, addr32 := addr32 } l := by
    intro l
    cases addr32 with
    | false => rfl
    | true =>
      refine scanPrefixes_cons _ _ _ _ .addr32 _ rfl ?_
      cases mode <;> first | rfl | simp [Prefixes.wellFormed] at hp
  have h3 : ∀ l, scanPrefixes mode { seg := seg, addr32 := addr32 } (optByte lock 0xF0#8 ++ l) =
      scanPrefixes mode { seg := seg, addr32 := addr32, lock := lock } l := by
    intro l
    cases lock with
    | false => rfl
    | true => exact scanPrefixes_cons _ _ _ _ .lock _ rfl rfl
  have h4 : ∀ l, scanPrefixes mode { seg := seg, addr32 := addr32, lock := lock } (optByte opsize 0x66#8 ++ l) =
      scanPrefixes mode { seg := seg, addr32 := addr32, lock := lock, opsize := opsize } l := by
    intro l
    cases opsize with
    | false => rfl
    | true => exact scanPrefixes_cons _ _ _ _ .opsize _ rfl rfl
  have h5 : ∀ l, scanPrefixes mode { seg := seg, addr32 := addr32, lock := lock, opsize := opsize }
      (optByte repne 0xF2#8 ++ l) =
      scanPrefixes mode { seg := seg, addr32 := addr32, lock := lock, opsize := opsize, repne := repne } l := by
    intro l
    cases repne with
    | false => rfl
    | true => exact scanPrefixes_cons _ _ _ _ .repne _ rfl rfl
  have h6 : ∀ l, scanPrefixes mode { seg := seg, addr32 := addr32, lock := lock, opsize := opsize, repne := repne }
      (optByte rep 0xF3#8 ++ l) =
      scanPrefixes mode
        { seg := seg, addr32 := addr32, lock := lock, opsize := opsize, repne := repne, rep := rep } l := by
    intro l
    cases rep with
    | false => rfl
    | true => exact scanPrefixes_cons _ _ _ _ .rep _ rfl rfl
  rw [h1, h2, h3, h4, h5, h6, scanPrefixes]
  simp [hb]

/-- The REX byte stands last. -/
theorem encodePrefixes_rex (p : Prefixes) :
    encodePrefixes p = encodePrefixes { p with rex := none } ++ rexBytes p.rex := by
  simp [encodePrefixes, rexBytes]

/-- Decoding skips the bytes of an admitted prefix set before an opcode byte that is no prefix. -/
theorem decode_encodePrefixes (mode : Mode) (p : Prefixes) (hp : p.wellFormed mode = true) (b : Byte) (bs : List Byte)
    (hb : pfxByte b = none) (hr : isRexByte b = false) :
    decode mode (encodePrefixes p ++ b :: bs) = decodeOpcode mode p (b :: bs) := by
  rw [encodePrefixes_rex]
  unfold decode
  cases hx : p.rex with
  | none =>
    rw [rexBytes, List.append_nil, scanPrefixes_encodePrefixes mode p hp b bs hb]
    have : ({ p with rex := none } : Prefixes) = p := by rw [← hx]
    simp [scanRex, hr, this]
  | some r =>
    rw [rexBytes, List.append_assoc, List.singleton_append,
      scanPrefixes_encodePrefixes mode p hp _ _ (pfxByte_rexByte r)]
    have hm : mode = .mode64 := by
      cases mode with
      | mode64 => rfl
      | mode32 => simp [Prefixes.wellFormed, hx] at hp
    subst hm
    simp [scanRex, isRexByte_rexByte, rexOf_rexByte, hb, hr]
    rw [← hx]

/-- One more admitted prefix: the set stays well formed and has one byte more. -/
theorem addPrefix_ok (mode : Mode) (p p' : Prefixes) (k : PfxByte) (h : addPrefix mode p k = .ok p')
    (hr : p.rex = none) :
    (p.wellFormed mode = true → p'.wellFormed mode = true) ∧ p'.count = p.count + 1 ∧ p'.rex = none := by
  obtain ⟨seg, addr32, lock, opsize, repne, rep, rex⟩ := p
  subst hr
  cases k with
  | seg x =>
    simp only [addPrefix] at h
    split at h
    · cases h
    · split at h
      · cases h
      · split at h
        · cases h
        · rename_i h2 h3
          cases h
          cases seg with
          | some _ => simp at h2
          | none =>
            refine ⟨?_, by simp [Prefixes.count]; omega, rfl⟩
            cases mode <;> cases x <;> simp_all [Prefixes.wellFormed]
  | addr32 =>
    cases addr32 <;> cases mode <;> simp [addPrefix] at h
    subst h
    simp [Prefixes.wellFormed, Prefixes.count]; omega
  | lock =>
    cases lock <;> simp [addPrefix] at h
    subst h
    cases mode <;> simp [Prefixes.wellFormed, Prefixes.count] <;> omega
  | opsize =>
    cases opsize <;> simp [addPrefix] at h
    subst h
    cases mode <;> simp [Prefixes.wellFormed, Prefixes.count] <;> omega
  | repne =>
    cases repne <;> simp [addPrefix] at h
    subst h
    cases mode <;> simp [Prefixes.wellFormed, Prefixes.count] <;> omega
  | rep =>
    cases rep <;> simp [addPrefix] at h
    subst h
    cases mode <;> simp [Prefixes.wellFormed, Prefixes.count]

/-- What reading the legacy prefixes gives: a well formed set, and as many bytes as it has. -/
theorem scanPrefixes_ok (mode : Mode) (p p' : Prefixes) (bs rest : List Byte)
    (h : scanPrefixes mode p bs = .ok p' rest) (hr : p.rex = none) (hw : p.wellFormed mode = true) :
    p'.wellFormed mode = true ∧ p'.rex = none ∧ p.count + bs.length = p'.count + rest.length := by
  induction bs generalizing p with
  | nil => cases h
  | cons b bs ih =>
    rw [scanPrefixes] at h
    split at h
    · cases h; exact ⟨hw, hr, rfl⟩
    · split at h
      · cases h
      · rename_i hk
        obtain ⟨h1, h2, h3⟩ := addPrefix_ok _ _ _ _ hk hr
        obtain ⟨h4, h5, h6⟩ := ih _ h h3 (h1 hw)
        exact ⟨h4, h5, by rw [List.length_cons]; omega⟩

/-- What reading a REX byte gives: a well formed set, and as many bytes as it has. -/
theorem scanRex_ok (mode : Mode) (p p' : Prefixes) (bs rest : List Byte) (h : scanRex mode p bs = .ok p' rest)
    (hr : p.rex = none) (hw : p.wellFormed mode = true) :
    p'.wellFormed mode = true ∧ p.count + bs.length = p'.count + rest.length := by
  unfold scanRex at h
  split at h
  · cases h
  · split at h
    · rename_i hm
      split at h
      · cases h
      · split at h
        · cases h
        · cases h
          refine ⟨by simpa [hm.1, Prefixes.wellFormed] using hw, ?_⟩
          simp [Prefixes.count, hr]; omega
    · cases h; exact ⟨hw, rfl⟩

/-! ### Operands: what is read is well formed and takes its length -/

theorem takeDisp32_ok (bs rest : List Byte) (v : BitVec 32) (h : takeDisp32 bs = some (v, rest)) :
    bs.length = 4 + rest.length := by
  unfold takeDisp32 at h
  split at h
  · cases h; simp only [List.length_cons]; omega
  · cases h

theorem takeDisp_ok (md : BitVec 2) (bs rest : List Byte) (d : Disp) (h3 : md ≠ 3#2)
    (h : takeDisp md bs = some (d, rest)) : bs.length = d.count + rest.length ∧ (d = .d0 → md = 0#2) := by
  unfold takeDisp at h
  split at h
  · split at h
    · cases h
    · cases h; exact ⟨by simp [Disp.count]; omega, fun h => by cases h⟩
  · split at h
    · rw [Option.map_eq_some_iff] at h
      obtain ⟨⟨v, r⟩, hv, he⟩ := h
      cases he
      exact ⟨takeDisp32_ok _ _ _ hv, fun h => by cases h⟩
    · cases h
      refine ⟨by simp [Disp.count], fun _ => ?_⟩
      revert md; decide

theorem takeSib_ok (md : BitVec 2) (bs rest : List Byte) (m : MemRef) (h3 : md ≠ 3#2)
    (h : takeSib md bs = some (m, rest)) :
    m.wellFormed = true ∧ bs.length + 1 = (RM.mem m).count + rest.length := by
  unfold takeSib at h
  split at h
  · cases h
  · split at h
    · rw [Option.map_eq_some_iff] at h
      obtain ⟨⟨v, r⟩, hv, he⟩ := h
      cases he
      have := takeDisp32_ok _ _ _ hv
      exact ⟨rfl, by simp [RM.count]; omega⟩
    · rename_i hn
      rw [Option.map_eq_some_iff] at h
      obtain ⟨⟨d, r⟩, hd, he⟩ := h
      cases he
      obtain ⟨hl, h0⟩ := takeDisp_ok _ _ _ _ h3 hd
      refine ⟨?_, by simp [RM.count]; omega⟩
      simp only [MemRef.wellFormed, Bool.not_eq_true', Bool.and_eq_false_iff, beq_eq_false_iff_ne, ne_eq]
      by_cases h : d = .d0
      · exact .inl fun h5 => hn ⟨h0 h, h5⟩
      · exact .inr h

/-- What `mod`, `r/m` and the bytes after them give is well formed and takes its length. -/
theorem takeRM_ok (md : BitVec 2) (r : BitVec 3) (bs rest : List Byte) (rm : RM) (h : takeRM md r bs = some (rm, rest)) :
    rm.wellFormed = true ∧ bs.length + 1 = rm.count + rest.length := by
  unfold takeRM at h
  split at h
  · cases h; exact ⟨rfl, by simp [RM.count]; omega⟩
  · rename_i h3
    split at h
    · rw [Option.map_eq_some_iff] at h
      obtain ⟨⟨m, r⟩, hm, he⟩ := h
      cases he
      exact takeSib_ok _ _ _ _ h3 hm
    · split at h
      · rw [Option.map_eq_some_iff] at h
        obtain ⟨⟨v, r⟩, hv, he⟩ := h
        cases he
        have := takeDisp32_ok _ _ _ hv
        exact ⟨rfl, by simp [RM.count]; omega⟩
      · rename_i h4 h5
        rw [Option.map_eq_some_iff] at h
        obtain ⟨⟨d, r⟩, hd, he⟩ := h
        cases he
        obtain ⟨hl, h0⟩ := takeDisp_ok _ _ _ _ h3 hd
        refine ⟨?_, by simp [RM.count]; omega⟩
        simp only [RM.wellFormed, MemRef.wellFormed, Bool.and_eq_true, bne_iff_ne, Bool.not_eq_true',
          Bool.and_eq_false_iff, beq_eq_false_iff_ne, ne_eq]
        refine ⟨h4, ?_⟩
        by_cases h : d = .d0
        · exact .inl fun h5' => h5 ⟨h0 h, h5'⟩
        · exact .inr h

/-- What the ModR/M byte and the bytes after it give is well formed and takes its length. -/
theorem takeOperands_ok (bs rest : List Byte) (reg : BitVec 3) (rm : RM) (h : takeOperands bs = some (reg, rm, rest)) :
    rm.wellFormed = true ∧ bs.length = rm.count + rest.length := by
  unfold takeOperands at h
  split at h
  · cases h
  · rw [Option.map_eq_some_iff] at h
    obtain ⟨⟨a, b⟩, hh, he⟩ := h
    cases he
    exact takeRM_ok _ _ _ _ _ hh

end Sys2Proof
end

