-- ==== Sys2Proof/Laws/Memory.lean ====
section
/-!
SUPPORT. Memory: a read after a write, the canonical form, loads byte by byte, and what the read primitive can do.
-/
namespace Sys2Proof.Machine

/-- Memory in canonical form from `lo` on reads as unlisted below `lo`. -/
theorem readByte_of_lt (m : Memory) (lo a : Nat) (h : wfFrom lo m = true) (ha : a < lo) :
    readByte m a = unlistedByte := by
  induction m generalizing lo with
  | nil => rfl
  | cons c m ih =>
    obtain ⟨b, v⟩ := c
    simp only [wfFrom, Bool.and_eq_true, decide_eq_true_eq] at h
    rw [readByte, if_neg (by omega)]
    exact ih (b + 1) h.2 (by omega)

/-- A byte just written reads back, and every other byte reads as before. -/
theorem readByte_writeByte (m : Memory) (lo a x : Nat) (v : Byte) (h : wfFrom lo m = true) :
    readByte (writeByte m a v) x = if x = a then v else readByte m x := by
  induction m generalizing lo with
  | nil =>
    by_cases hv : v = unlistedByte <;> by_cases hx : x = a <;> simp [writeByte, readByte, hv, hx]
  | cons c m ih =>
    obtain ⟨b, w⟩ := c
    simp only [wfFrom, Bool.and_eq_true, decide_eq_true_eq] at h
    obtain ⟨⟨⟨_, _⟩, _⟩, hm⟩ := h
    rw [writeByte]
    by_cases hab : a < b
    · by_cases hv : v = unlistedByte
      · by_cases hx : x = a
        · subst hx
          simp [hab, hv, readByte, show x ≠ b by omega, readByte_of_lt m (b + 1) x hm (by omega)]
        · simp [hab, hv, hx]
      · simp [hab, hv, readByte]
    · by_cases hb : a = b
      · subst hb
        by_cases hv : v = unlistedByte
        · by_cases hx : x = a
          · subst hx; simp [hv, readByte_of_lt m (x + 1) x hm (by omega)]
          · simp [hv, hx, readByte]
        · by_cases hx : x = a <;> simp [hv, hx, readByte]
      · simp only [hab, hb, if_false, readByte, ih (b + 1) hm]
        by_cases hx : x = b
        · simp [hx, Ne.symm hb]
        · simp [hx]

/-- Writing a byte inside the address space keeps the canonical form. -/
theorem wfFrom_writeByte (m : Memory) (lo a : Nat) (v : Byte) (h : wfFrom lo m = true) (hlo : lo ≤ a)
    (ha : a < 2 ^ 64) : wfFrom lo (writeByte m a v) = true := by
  induction m generalizing lo with
  | nil =>
    by_cases hv : v = unlistedByte
    · simp [writeByte, hv, wfFrom]
    · simp [writeByte, hv, wfFrom, hlo]; exact ha
  | cons c m ih =>
    obtain ⟨b, w⟩ := c
    have h0 := h
    simp only [wfFrom, Bool.and_eq_true, decide_eq_true_eq] at h
    obtain ⟨⟨⟨hlb, hb64⟩, hw⟩, hm⟩ := h
    rw [writeByte]
    by_cases hab : a < b
    · by_cases hv : v = unlistedByte
      · simpa [hab, hv] using h0
      · simp only [hab, hv, if_true, if_false, wfFrom, Bool.and_eq_true, decide_eq_true_eq]
        exact ⟨⟨⟨hlo, ha⟩, by simpa using hv⟩, ⟨⟨by omega, hb64⟩, hw⟩, hm⟩
    · by_cases hb : a = b
      · subst hb
        by_cases hv : v = unlistedByte
        · simp only [hv, Nat.lt_irrefl, if_true, if_false]
          have weaken : ∀ (k : Nat) (m : Memory), k ≤ a + 1 → wfFrom (a + 1) m = true → wfFrom k m = true := by
            intro k m hk hm
            cases m with
            | nil => rfl
            | cons c m =>
              obtain ⟨b, w⟩ := c
              simp only [wfFrom, Bool.and_eq_true, decide_eq_true_eq] at hm ⊢
              exact ⟨⟨⟨by omega, hm.1.1.2⟩, hm.1.2⟩, hm.2⟩
          exact weaken lo m (by omega) hm
        · simp only [hv, Nat.lt_irrefl, if_true, if_false, wfFrom, Bool.and_eq_true, decide_eq_true_eq]
          exact ⟨⟨⟨hlo, ha⟩, by simpa using hv⟩, hm⟩
      · simp only [hab, hb, if_false, wfFrom, Bool.and_eq_true, decide_eq_true_eq]
        exact ⟨⟨⟨hlb, hb64⟩, hw⟩, ih (b + 1) hm (by omega)⟩

/-- Writing a byte keeps the canonical form of memory. -/
theorem wf_writeByte (m : Memory) (a : Nat) (v : Byte) (h : Memory.wf m = true) (ha : a < 2 ^ 64) :
    Memory.wf (writeByte m a v) = true := wfFrom_writeByte m 0 a v h (Nat.zero_le a) ha

/-- Writing bytes keeps the canonical form of memory. -/
theorem wf_writeBytes (m : Memory) (a : Nat) (bs : List Byte) (h : Memory.wf m = true) :
    Memory.wf (writeBytes m a bs) = true := by
  induction bs generalizing m a with
  | nil => exact h
  | cons b bs ih => exact ih _ _ (wf_writeByte m _ b h (Nat.mod_lt _ (by decide)))

/-- Bytes written below the top read back, and every other byte reads as before. -/
theorem readByte_writeBytes (m : Memory) (a x : Nat) (bs : List Byte) (h : Memory.wf m = true)
    (ha : a + bs.length ≤ 2 ^ 64) :
    readByte (writeBytes m a bs) x = if hx : a ≤ x ∧ x < a + bs.length then bs[x - a]'(by omega) else readByte m x := by
  induction bs generalizing m a with
  | nil => simp [writeBytes, show ¬ (a ≤ x ∧ x < a) by omega]
  | cons b bs ih =>
    rw [List.length_cons] at ha
    have hmod : a % 2 ^ 64 = a := Nat.mod_eq_of_lt (by omega)
    rw [writeBytes, ih _ _ (wf_writeByte m _ b h (Nat.mod_lt _ (by decide))) (by omega), hmod]
    by_cases hx : x = a
    · subst hx
      simp [readByte_writeByte m 0 _ _ b h, show ¬ (x + 1 ≤ x) by omega]
    · by_cases hin : a + 1 ≤ x ∧ x < a + 1 + bs.length
      · have : x - a = (x - (a + 1)) + 1 := by omega
        simp [hin, show a ≤ x by omega, show x < a + (bs.length + 1) by omega, this]
      · rw [dif_neg hin, dif_neg (by simp only [List.length_cons]; omega), readByte_writeByte m 0 _ _ b h, if_neg hx]

/-- The read primitive succeeds exactly when every check of R55 passes, and answers the bytes at the address. -/
theorem memRead_eq_ok (s : State) (seg : Seg) (lin L : Nat) (al : Bool) (shape : AcShape) (v : BitVec L) :
    memRead s seg lin L al shape = .ok v ↔
      rangeOk s.cfg lin (L / 8) = true ∧ (al = true → lin % 16 = 0) ∧
        accessCheck s.cfg .dataRead lin (L / 8) = none ∧ alignCheck s.cfg shape lin (L / 8) = false ∧
        ordinary s.cfg lin (L / 8) = true ∧ v = loadLE L s.mem lin := by
  unfold memRead
  rw [@eq_comm _ v]
  cases rangeOk s.cfg lin (L / 8) <;> cases al <;> cases accessCheck s.cfg .dataRead lin (L / 8) <;>
    cases alignCheck s.cfg shape lin (L / 8) <;> cases ordinary s.cfg lin (L / 8) <;>
    by_cases h16 : lin % 16 = 0 <;> simp [h16]

/-- The read primitive faults exactly where R55 says, in its order. -/
theorem memRead_eq_error (s : State) (seg : Seg) (lin L : Nat) (al : Bool) (shape : AcShape) (e : Fault) :
    memRead s seg lin L al shape = .error (.fault e) ↔
      (rangeOk s.cfg lin (L / 8) = false ∧ e = rangeFault seg) ∨
      (rangeOk s.cfg lin (L / 8) = true ∧ al = true ∧ lin % 16 ≠ 0 ∧ e = .gp0) ∨
      (rangeOk s.cfg lin (L / 8) = true ∧ (al = true → lin % 16 = 0) ∧
        ∃ code, accessCheck s.cfg .dataRead lin (L / 8) = some code ∧ e = .pf code) ∨
      (rangeOk s.cfg lin (L / 8) = true ∧ (al = true → lin % 16 = 0) ∧
        accessCheck s.cfg .dataRead lin (L / 8) = none ∧ alignCheck s.cfg shape lin (L / 8) = true ∧ e = .ac0) := by
  unfold memRead
  cases rangeOk s.cfg lin (L / 8) <;> cases al <;> cases accessCheck s.cfg .dataRead lin (L / 8) <;>
    cases alignCheck s.cfg shape lin (L / 8) <;> cases ordinary s.cfg lin (L / 8) <;>
    by_cases h16 : lin % 16 = 0 <;> simp [h16] <;> exact eq_comm

/-- The read primitive refuses exactly where no check of R55 stops it and the bytes are not ordinary memory (R60). -/
theorem memRead_eq_refused (s : State) (seg : Seg) (lin L : Nat) (al : Bool) (shape : AcShape) (r : Refusal) :
    memRead s seg lin L al shape = .error (.refused r) ↔
      rangeOk s.cfg lin (L / 8) = true ∧ (al = true → lin % 16 = 0) ∧
        accessCheck s.cfg .dataRead lin (L / 8) = none ∧ alignCheck s.cfg shape lin (L / 8) = false ∧
        ordinary s.cfg lin (L / 8) = false ∧ r = .deviceRead := by
  unfold memRead
  cases rangeOk s.cfg lin (L / 8) <;> cases al <;> cases accessCheck s.cfg .dataRead lin (L / 8) <;>
    cases alignCheck s.cfg shape lin (L / 8) <;> cases ordinary s.cfg lin (L / 8) <;>
    by_cases h16 : lin % 16 = 0 <;> simp [h16] <;> exact eq_comm

/-- The elements whose mask bit is 1. -/
@[simp] theorem mem_activeElements (mask : BitVec 64) (n j : Nat) :
    j ∈ activeElements mask n ↔ j < n ∧ mask.getLsbD j = true := by simp [activeElements]

/-- The masked read succeeds when every element whose mask bit is 1 passes and the alignment check does. -/
theorem memReadMasked_of_ok (s : State) (seg : Seg) (lin w L : Nat) (mask : BitVec 64)
    (h : ∀ j < L / w, mask.getLsbD j = true → rangeOk s.cfg (lin + j * (w / 8)) (w / 8) = true ∧
      accessCheck s.cfg .dataRead (lin + j * (w / 8)) (w / 8) = none ∧
      ordinary s.cfg (lin + j * (w / 8)) (w / 8) = true)
    (hac : alignCheck s.cfg .vector lin (L / 8) = false) :
    ∃ v, memReadMasked s seg lin w L mask = .ok v ∧ ∀ j < L / w, mask.getLsbD j = true →
      v.extractLsb' (w * j) w = loadLE w s.mem (lin + j * (w / 8)) := by
  unfold memReadMasked
  by_cases he : (activeElements mask (L / w)).isEmpty = true
  · refine ⟨0, by simp [he], fun j hj hm => ?_⟩
    have : j ∈ activeElements mask (L / w) := (mem_activeElements ..).2 ⟨hj, hm⟩
    rw [List.isEmpty_iff.1 he] at this
    cases this
  · have hany : ((activeElements mask (L / w)).any fun j => !rangeOk s.cfg (lin + j * (w / 8)) (w / 8)) = false := by
      rw [List.any_eq_false]
      intro j hj
      obtain ⟨h1, h2⟩ := (mem_activeElements ..).1 hj
      simp [(h j h1 h2).1]
    have hfind : ((activeElements mask (L / w)).findSome? fun j =>
        accessCheck s.cfg .dataRead (lin + j * (w / 8)) (w / 8)) = none := by
      rw [List.findSome?_eq_none_iff]
      intro j hj
      obtain ⟨h1, h2⟩ := (mem_activeElements ..).1 hj
      exact (h j h1 h2).2.1
    have hord : ((activeElements mask (L / w)).any fun j => !ordinary s.cfg (lin + j * (w / 8)) (w / 8)) = false := by
      rw [List.any_eq_false]
      intro j hj
      obtain ⟨h1, h2⟩ := (mem_activeElements ..).1 hj
      simp [(h j h1 h2).2.2]
    refine ⟨packLanes w L (fun j => if mask.getLsbD j then loadLE w s.mem (lin + j * (w / 8)) else 0) (L / w),
      by simp [he, hany, hfind, hac, hord], fun j hj hm => ?_⟩
    rw [lane_packLanes w L _ _ j hj (by rw [Nat.mul_comm]; exact Nat.div_mul_le_self L w)]
    simp [hm]

/-! ### What the reads use of `env` -/

/-- `env` reaches the alignment check through whether alignment checking is on (`20_memory.md` R58). -/
theorem alignCheck_withEnv (c : Config) (e : Env) (shape : AcShape) (lin n : Nat)
    (h : alignmentCheckingOn e = alignmentCheckingOn c.env) :
    alignCheck { c with env := e } shape lin n = alignCheck c shape lin n := by
  simp [alignCheck, h]

/-- `env` reaches a read through `Access` and through whether alignment checking is on (R55, R58, R62). -/
theorem memRead_withEnv (s : State) (e : Env) (seg : Seg) (lin L : Nat) (al : Bool) (shape : AcShape)
    (ha : ∀ lin n, accessCheck { s.cfg with env := e } .dataRead lin n = accessCheck s.cfg .dataRead lin n)
    (ho : alignmentCheckingOn e = alignmentCheckingOn s.cfg.env) :
    memRead { s with cfg := { s.cfg with env := e } } seg lin L al shape = memRead s seg lin L al shape := by
  simp only [memRead, ha, alignCheck_withEnv _ _ _ _ _ ho]
  rfl

/-- The same of a read with fault suppression (`60_exceptions.md` R236). -/
theorem memReadMasked_withEnv (s : State) (e : Env) (seg : Seg) (lin w L : Nat) (mask : BitVec 64)
    (ha : ∀ lin n, accessCheck { s.cfg with env := e } .dataRead lin n = accessCheck s.cfg .dataRead lin n)
    (ho : alignmentCheckingOn e = alignmentCheckingOn s.cfg.env) :
    memReadMasked { s with cfg := { s.cfg with env := e } } seg lin w L mask = memReadMasked s seg lin w L mask := by
  simp only [memReadMasked, ha, alignCheck_withEnv _ _ _ _ _ ho]
  rfl

end Sys2Proof.Machine
end

