-- ==== Sys2Proof/Laws/State.lean ====
section
/-!
SUPPORT. One lemma per field per update of the state, and how the register reads see a register write.
-/
namespace Sys2Proof.Machine

/-! ### `setZmm` -/

@[simp] theorem State.setZmm_mm (s : State) (i : BitVec 5) (v : BitVec 512) : (s.setZmm i v).mm = s.mm := rfl
@[simp] theorem State.setZmm_k (s : State) (i : BitVec 5) (v : BitVec 512) : (s.setZmm i v).k = s.k := rfl
@[simp] theorem State.setZmm_gpr (s : State) (i : BitVec 5) (v : BitVec 512) : (s.setZmm i v).gpr = s.gpr := rfl
@[simp] theorem State.setZmm_rip (s : State) (i : BitVec 5) (v : BitVec 512) : (s.setZmm i v).rip = s.rip := rfl
@[simp] theorem State.setZmm_fsBase (s : State) (i : BitVec 5) (v : BitVec 512) : (s.setZmm i v).fsBase = s.fsBase := rfl
@[simp] theorem State.setZmm_gsBase (s : State) (i : BitVec 5) (v : BitVec 512) : (s.setZmm i v).gsBase = s.gsBase := rfl
@[simp] theorem State.setZmm_mem (s : State) (i : BitVec 5) (v : BitVec 512) : (s.setZmm i v).mem = s.mem := rfl
@[simp] theorem State.setZmm_cfg (s : State) (i : BitVec 5) (v : BitVec 512) : (s.setZmm i v).cfg = s.cfg := rfl

/-- The vector register just written, and every other one. -/
theorem State.zmmReg_setZmm (s : State) (i j : BitVec 5) (v : BitVec 512) :
    (s.setZmm i v).zmmReg j = if j = i then v else s.zmmReg j := by
  simp only [State.zmmReg, State.setZmm, Vector.getElem_set, BitVec.toNat_inj, eq_comm (a := i)]

@[simp] theorem State.zmmReg_setZmm_self (s : State) (i : BitVec 5) (v : BitVec 512) :
    (s.setZmm i v).zmmReg i = v := by simp [State.zmmReg_setZmm]

@[simp] theorem State.mmReg_setZmm (s : State) (i : BitVec 5) (j : BitVec 3) (v : BitVec 512) :
    (s.setZmm i v).mmReg j = s.mmReg j := rfl

@[simp] theorem State.kReg_setZmm (s : State) (i : BitVec 5) (j : BitVec 3) (v : BitVec 512) :
    (s.setZmm i v).kReg j = s.kReg j := rfl

@[simp] theorem State.gprReg_setZmm (s : State) (i : BitVec 5) (j : BitVec 4) (v : BitVec 512) :
    (s.setZmm i v).gprReg j = s.gprReg j := rfl

/-! ### `setMm` -/

@[simp] theorem State.setMm_zmm (s : State) (i : BitVec 3) (v : BitVec 64) : (s.setMm i v).zmm = s.zmm := rfl
@[simp] theorem State.setMm_k (s : State) (i : BitVec 3) (v : BitVec 64) : (s.setMm i v).k = s.k := rfl
@[simp] theorem State.setMm_gpr (s : State) (i : BitVec 3) (v : BitVec 64) : (s.setMm i v).gpr = s.gpr := rfl
@[simp] theorem State.setMm_rip (s : State) (i : BitVec 3) (v : BitVec 64) : (s.setMm i v).rip = s.rip := rfl
@[simp] theorem State.setMm_fsBase (s : State) (i : BitVec 3) (v : BitVec 64) : (s.setMm i v).fsBase = s.fsBase := rfl
@[simp] theorem State.setMm_gsBase (s : State) (i : BitVec 3) (v : BitVec 64) : (s.setMm i v).gsBase = s.gsBase := rfl
@[simp] theorem State.setMm_mem (s : State) (i : BitVec 3) (v : BitVec 64) : (s.setMm i v).mem = s.mem := rfl
@[simp] theorem State.setMm_cfg (s : State) (i : BitVec 3) (v : BitVec 64) : (s.setMm i v).cfg = s.cfg := rfl

/-- The MMX register just written, and every other one. -/
theorem State.mmReg_setMm (s : State) (i j : BitVec 3) (v : BitVec 64) :
    (s.setMm i v).mmReg j = if j = i then v else s.mmReg j := by
  simp only [State.mmReg, State.setMm, Vector.getElem_set, BitVec.toNat_inj, eq_comm (a := i)]

@[simp] theorem State.mmReg_setMm_self (s : State) (i : BitVec 3) (v : BitVec 64) :
    (s.setMm i v).mmReg i = v := by simp [State.mmReg_setMm]

@[simp] theorem State.zmmReg_setMm (s : State) (i : BitVec 3) (j : BitVec 5) (v : BitVec 64) :
    (s.setMm i v).zmmReg j = s.zmmReg j := rfl

@[simp] theorem State.kReg_setMm (s : State) (i j : BitVec 3) (v : BitVec 64) :
    (s.setMm i v).kReg j = s.kReg j := rfl

@[simp] theorem State.gprReg_setMm (s : State) (i : BitVec 3) (j : BitVec 4) (v : BitVec 64) :
    (s.setMm i v).gprReg j = s.gprReg j := rfl

/-! ### `advance` -/

@[simp] theorem State.advance_zmm (s : State) (n : Nat) : (s.advance n).zmm = s.zmm := rfl
@[simp] theorem State.advance_mm (s : State) (n : Nat) : (s.advance n).mm = s.mm := rfl
@[simp] theorem State.advance_k (s : State) (n : Nat) : (s.advance n).k = s.k := rfl
@[simp] theorem State.advance_gpr (s : State) (n : Nat) : (s.advance n).gpr = s.gpr := rfl
@[simp] theorem State.advance_rip (s : State) (n : Nat) : (s.advance n).rip = s.rip + BitVec.ofNat 64 n := rfl
@[simp] theorem State.advance_fsBase (s : State) (n : Nat) : (s.advance n).fsBase = s.fsBase := rfl
@[simp] theorem State.advance_gsBase (s : State) (n : Nat) : (s.advance n).gsBase = s.gsBase := rfl
@[simp] theorem State.advance_mem (s : State) (n : Nat) : (s.advance n).mem = s.mem := rfl
@[simp] theorem State.advance_cfg (s : State) (n : Nat) : (s.advance n).cfg = s.cfg := rfl
@[simp] theorem State.zmmReg_advance (s : State) (n : Nat) (i : BitVec 5) : (s.advance n).zmmReg i = s.zmmReg i := rfl
@[simp] theorem State.mmReg_advance (s : State) (n : Nat) (i : BitVec 3) : (s.advance n).mmReg i = s.mmReg i := rfl
@[simp] theorem State.kReg_advance (s : State) (n : Nat) (i : BitVec 3) : (s.advance n).kReg i = s.kReg i := rfl
@[simp] theorem State.gprReg_advance (s : State) (n : Nat) (i : BitVec 4) : (s.advance n).gprReg i = s.gprReg i := rfl

/-! ### `placeBytes` -/

@[simp] theorem State.placeBytes_zmm (s : State) (bs : List Byte) : (s.placeBytes bs).zmm = s.zmm := rfl
@[simp] theorem State.placeBytes_mm (s : State) (bs : List Byte) : (s.placeBytes bs).mm = s.mm := rfl
@[simp] theorem State.placeBytes_k (s : State) (bs : List Byte) : (s.placeBytes bs).k = s.k := rfl
@[simp] theorem State.placeBytes_gpr (s : State) (bs : List Byte) : (s.placeBytes bs).gpr = s.gpr := rfl
@[simp] theorem State.placeBytes_rip (s : State) (bs : List Byte) : (s.placeBytes bs).rip = s.rip := rfl
@[simp] theorem State.placeBytes_fsBase (s : State) (bs : List Byte) : (s.placeBytes bs).fsBase = s.fsBase := rfl
@[simp] theorem State.placeBytes_gsBase (s : State) (bs : List Byte) : (s.placeBytes bs).gsBase = s.gsBase := rfl
@[simp] theorem State.placeBytes_cfg (s : State) (bs : List Byte) : (s.placeBytes bs).cfg = s.cfg := rfl
@[simp] theorem State.placeBytes_mem (s : State) (bs : List Byte) :
    (s.placeBytes bs).mem = writeBytes s.mem (fetchAddress s) bs := rfl

/-! ### `withFetchWord` -/

@[simp] theorem State.withFetchWord_zmm (s : State) (n w : Nat) : (s.withFetchWord n w).zmm = s.zmm := rfl
@[simp] theorem State.withFetchWord_mm (s : State) (n w : Nat) : (s.withFetchWord n w).mm = s.mm := rfl
@[simp] theorem State.withFetchWord_k (s : State) (n w : Nat) : (s.withFetchWord n w).k = s.k := rfl
@[simp] theorem State.withFetchWord_gpr (s : State) (n w : Nat) : (s.withFetchWord n w).gpr = s.gpr := rfl
@[simp] theorem State.withFetchWord_rip (s : State) (n w : Nat) : (s.withFetchWord n w).rip = s.rip := rfl
@[simp] theorem State.withFetchWord_fsBase (s : State) (n w : Nat) : (s.withFetchWord n w).fsBase = s.fsBase := rfl
@[simp] theorem State.withFetchWord_gsBase (s : State) (n w : Nat) : (s.withFetchWord n w).gsBase = s.gsBase := rfl
@[simp] theorem State.withFetchWord_cfg (s : State) (n w : Nat) : (s.withFetchWord n w).cfg = s.cfg := rfl
@[simp] theorem State.withFetchWord_mem (s : State) (n w : Nat) :
    (s.withFetchWord n w).mem = writeBytes s.mem (fetchAddress s) (wordBytes n w) := rfl
@[simp] theorem State.fetchAddress_withFetchWord (s : State) (n w : Nat) :
    fetchAddress (s.withFetchWord n w) = fetchAddress s := rfl

end Sys2Proof.Machine
end

