-- ==== Sys2Proof/Laws/Exec.lean ====
section
/-!
SUPPORT. What the checks and the shared meanings of the forms can do, said once.
-/
namespace Sys2Proof.Machine
open Sys2Proof.Safety

/-! ### The checks of each class -/

theorem udThenNm_eq_none (c : Config) (ud : Bool) : udThenNm c ud = none ↔ ud = false ∧ c.env.cr0Ts = false := by
  unfold udThenNm; cases ud <;> cases c.env.cr0Ts <;> simp

theorem udThenNm_eq_some (c : Config) (ud : Bool) (e : Fault) :
    udThenNm c ud = some e ↔ (ud = true ∧ e = .ud) ∨ (ud = false ∧ c.env.cr0Ts = true ∧ e = .nm) := by
  unfold udThenNm; cases ud <;> cases c.env.cr0Ts <;> simp [eq_comm]

theorem featureMissing_eq_false (c : Config) (fs : List Feature) :
    featureMissing c fs = false ↔ HasFeatures c fs := by
  simp [featureMissing, HasFeatures]

theorem strayBeforeVex_eq_false (p : Prefixes) : p.strayBeforeVex = false ↔ NoStrayPrefix p := by
  simp [Prefixes.strayBeforeVex, NoStrayPrefix, and_assoc]

/-- R218: when no check stops an MMX form. -/
theorem mmxChecks_eq_none (c : Config) (f : LegacyForm) : mmxChecks c f = none ↔ MmxReady c f := by
  unfold mmxChecks MmxReady
  cases h : udThenNm c (mmxUd c f) with
  | some e =>
    simp only [reduceCtorEq, false_iff]
    rintro ⟨h1, h2, h3, h4, -⟩
    simp [udThenNm, mmxUd, featureMissing, Features.has, h1, h2, h3, h4] at h
  | none =>
    rw [udThenNm_eq_none] at h
    simp [mmxUd, featureMissing, Features.has] at h
    simp [h]

/-- R218: which check stops an MMX form. -/
theorem mmxChecks_eq_some (c : Config) (f : LegacyForm) (e : Fault) :
    mmxChecks c f = some e ↔
      (mmxUd c f = true ∧ e = .ud) ∨ (mmxUd c f = false ∧ c.env.cr0Ts = true ∧ e = .nm) ∨
      (mmxUd c f = false ∧ c.env.cr0Ts = false ∧ c.env.x87Pending = true ∧ e = .mf) := by
  unfold mmxChecks udThenNm
  cases mmxUd c f <;> cases c.env.cr0Ts <;> cases c.env.x87Pending <;> simp [eq_comm]

theorem xmmUd_eq_false (c : Config) (f : LegacyForm) :
    xmmUd c f = false ↔
      f.pfx.lock = false ∧ c.feat.ssse3 = true ∧ c.env.cr0Em = false ∧ c.env.cr4Osfxsr = true := by
  simp [xmmUd, featureMissing, Features.has, and_assoc]

/-- R220: when no check stops a legacy xmm form. -/
theorem xmmChecks_eq_none (c : Config) (f : LegacyForm) : xmmChecks c f = none ↔ XmmReady c f := by
  simp [xmmChecks, udThenNm_eq_none, xmmUd_eq_false, XmmReady, and_assoc]

theorem vexUd_eq_false (c : Config) (x : Feature) (f : VexForm) :
    vexUd c x f = false ↔ NoStrayPrefix f.pfx ∧ f.vvvv = 15#4 ∧ c.feat.has x = true ∧ VexEnabled c.env := by
  simp [vexUd, featureMissing, strayBeforeVex_eq_false, VexEnabled, and_assoc]

/-- R221: when no check stops a VEX form. -/
theorem vexChecks_eq_none (c : Config) (x : Feature) (f : VexForm) : vexChecks c x f = none ↔ VexReady c x f := by
  simp [vexChecks, udThenNm_eq_none, vexUd_eq_false, VexReady, and_assoc]

theorem evexEnabled_eq_true (e : Env) : evexEnabled e = true ↔ EvexEnabled e := by
  simp [evexEnabled, EvexEnabled, VexEnabled, and_assoc]

theorem isRegSource_eq_true (rm : RM) : isRegSource rm = true ↔ ∃ r, rm = .reg r := by
  cases rm <;> simp [isRegSource]

theorem evexReserved_eq_false (bcst : Bool) (f : EvexForm) :
    evexReserved bcst f = false ↔ EvexFieldsOk f ∧ ¬ BroadcastBad bcst f := by
  simp only [evexReserved, EvexFieldsOk, BroadcastBad, ← isRegSource_eq_true, Bool.or_eq_false_iff,
    strayBeforeVex_eq_false]
  cases f.z <;> cases f.b <;> cases isRegSource f.rm <;> cases bcst <;> simp [and_assoc]

theorem evexUd_eq_false (c : Config) (bcst : Bool) (fs : List Feature) (f : EvexForm) :
    evexUd c bcst fs f = false ↔
      EvexFieldsOk f ∧ ¬ BroadcastBad bcst f ∧ HasFeatures c fs ∧ EvexEnabled c.env := by
  simp only [evexUd, Bool.or_eq_false_iff, evexReserved_eq_false, featureMissing_eq_false, Bool.not_eq_false',
    evexEnabled_eq_true, and_assoc]

/-- R222: when no check stops an EVEX form. -/
theorem evexChecks_eq_none (c : Config) (bcst : Bool) (fs : List Feature) (f : EvexForm) :
    evexChecks c bcst fs f = none ↔ EvexReady c fs f ∧ ¬ BroadcastBad bcst f := by
  simp only [evexChecks, udThenNm_eq_none, evexUd_eq_false, EvexReady]
  tauto

/-! ### The shared meanings: a next state exactly when the checks pass and the source is read; a fault or
refusal exactly where a check or the read answers it -/

theorem execMmx_eq_next (w : Nat) (f : LegacyForm) (s t : State) :
    execMmx w f s = .next t ↔ mmxChecks s.cfg f = none ∧
      ∃ src, mmxSource s f = .ok src ∧ t = (s.setMm f.reg (packedAbs w 64 src)).advance f.len := by
  unfold execMmx raise
  cases mmxChecks s.cfg f <;> rcases mmxSource s f with (_ | _) | _ <;> simp [stopOutcome, raise, eq_comm]

theorem execMmx_eq_fault (w : Nat) (f : LegacyForm) (s : State) (e : Fault) :
    execMmx w f s = .fault e ↔
      mmxChecks s.cfg f = some e ∨ (mmxChecks s.cfg f = none ∧ mmxSource s f = .error (.fault e)) := by
  unfold execMmx raise
  cases mmxChecks s.cfg f <;> rcases mmxSource s f with (_ | _) | _ <;> simp [stopOutcome, raise]

theorem execMmx_eq_refused (w : Nat) (f : LegacyForm) (s : State) (r : Refusal) :
    execMmx w f s = .refused r ↔ mmxChecks s.cfg f = none ∧ mmxSource s f = .error (.refused r) := by
  unfold execMmx raise
  cases mmxChecks s.cfg f <;> rcases mmxSource s f with (_ | _) | _ <;> simp [stopOutcome, raise]

theorem execXmm_eq_next (w : Nat) (f : LegacyForm) (s t : State) :
    execXmm w f s = .next t ↔ xmmChecks s.cfg f = none ∧
      ∃ src, xmmSource s f = .ok src ∧
        t = (s.setZmm (legacyDst f) (keepUpper (s.zmmReg (legacyDst f)) (packedAbs w 128 src))).advance f.len := by
  unfold execXmm raise
  cases xmmChecks s.cfg f <;> rcases xmmSource s f with (_ | _) | _ <;> simp [stopOutcome, raise, eq_comm]

theorem execXmm_eq_fault (w : Nat) (f : LegacyForm) (s : State) (e : Fault) :
    execXmm w f s = .fault e ↔
      xmmChecks s.cfg f = some e ∨ (xmmChecks s.cfg f = none ∧ xmmSource s f = .error (.fault e)) := by
  unfold execXmm raise
  cases xmmChecks s.cfg f <;> rcases xmmSource s f with (_ | _) | _ <;> simp [stopOutcome, raise]

theorem execXmm_eq_refused (w : Nat) (f : LegacyForm) (s : State) (r : Refusal) :
    execXmm w f s = .refused r ↔ xmmChecks s.cfg f = none ∧ xmmSource s f = .error (.refused r) := by
  unfold execXmm raise
  cases xmmChecks s.cfg f <;> rcases xmmSource s f with (_ | _) | _ <;> simp [stopOutcome, raise]

theorem execVex_eq_next (w VL : Nat) (x : Feature) (f : VexForm) (s t : State) :
    execVex w VL x f s = .next t ↔ vexChecks s.cfg x f = none ∧
      ∃ src, vexSource VL s f = .ok src ∧
        t = (s.setZmm (vexDst f) ((packedAbs w VL src).setWidth 512)).advance f.len := by
  unfold execVex raise
  cases vexChecks s.cfg x f <;> rcases vexSource VL s f with (_ | _) | _ <;> simp [stopOutcome, raise, eq_comm]

theorem execVex_eq_fault (w VL : Nat) (x : Feature) (f : VexForm) (s : State) (e : Fault) :
    execVex w VL x f s = .fault e ↔
      vexChecks s.cfg x f = some e ∨ (vexChecks s.cfg x f = none ∧ vexSource VL s f = .error (.fault e)) := by
  unfold execVex raise
  cases vexChecks s.cfg x f <;> rcases vexSource VL s f with (_ | _) | _ <;> simp [stopOutcome, raise]

theorem execVex_eq_refused (w VL : Nat) (x : Feature) (f : VexForm) (s : State) (r : Refusal) :
    execVex w VL x f s = .refused r ↔ vexChecks s.cfg x f = none ∧ vexSource VL s f = .error (.refused r) := by
  unfold execVex raise
  cases vexChecks s.cfg x f <;> rcases vexSource VL s f with (_ | _) | _ <;> simp [stopOutcome, raise]

theorem execEvex_eq_next (w VL : Nat) (bcst : Bool) (fs : List Feature) (f : EvexForm) (s t : State) :
    execEvex w VL bcst fs f s = .next t ↔ evexChecks s.cfg bcst fs f = none ∧
      ∃ src, evexSource w VL s f = .ok src ∧
        t = (s.setZmm (evexDst f) ((maskedAbs w VL src (writeMask s f) f.z
          ((s.zmmReg (evexDst f)).setWidth VL)).setWidth 512)).advance f.len := by
  unfold execEvex raise
  cases evexChecks s.cfg bcst fs f <;> rcases evexSource w VL s f with (_ | _) | _ <;> simp [stopOutcome, raise, eq_comm]

theorem execEvex_eq_fault (w VL : Nat) (bcst : Bool) (fs : List Feature) (f : EvexForm) (s : State) (e : Fault) :
    execEvex w VL bcst fs f s = .fault e ↔
      evexChecks s.cfg bcst fs f = some e ∨
        (evexChecks s.cfg bcst fs f = none ∧ evexSource w VL s f = .error (.fault e)) := by
  unfold execEvex raise
  cases evexChecks s.cfg bcst fs f <;> rcases evexSource w VL s f with (_ | _) | _ <;> simp [stopOutcome, raise]

theorem execEvex_eq_refused (w VL : Nat) (bcst : Bool) (fs : List Feature) (f : EvexForm) (s : State)
    (r : Refusal) :
    execEvex w VL bcst fs f s = .refused r ↔ evexChecks s.cfg bcst fs f = none ∧ evexSource w VL s f = .error (.refused r) := by
  unfold execEvex raise
  cases evexChecks s.cfg bcst fs f <;> rcases evexSource w VL s f with (_ | _) | _ <;> simp [stopOutcome, raise]

/-! ### Parts of the results -/

/-- The low bits of `keepUpper` are the new value's, the upper bits the old one's. -/
theorem getLsbD_keepUpper (old : BitVec 512) (low : BitVec 128) (i : Nat) :
    (keepUpper old low).getLsbD i = if i < 128 then low.getLsbD i else old.getLsbD i := by
  by_cases h : i < 128
  · simp [keepUpper, h, show i < 512 by omega]
  · by_cases h' : i < 512
    · simp [keepUpper, h, h', show 128 + (i - 128) = i by omega, BitVec.getLsbD_of_ge low i (Nat.not_lt.mp h)]
    · simp [keepUpper, h, BitVec.getLsbD_of_ge _ _ (Nat.not_lt.mp h')]

/-- Mask bit `j` is bit `j` of the write-mask, for the lanes of any vector (R181). -/
theorem getLsbD_writeMask (s : State) (f : EvexForm) (j : Nat) (hj : j < 64) :
    (writeMask s f).getLsbD j = true ↔ MaskBit s f j := by
  unfold writeMask MaskBit
  by_cases h : f.aaa = 0#3
  · rw [if_pos h, BitVec.getLsbD_allOnes]; simp [h, hj]
  · simp [h]

end Sys2Proof.Machine
end

