-- ==== Sys2Proof/Laws/Fetch.lean ====
section
/-!
SUPPORT. What a fetch gives and what a step can do, said once.
-/
namespace Sys2Proof.Machine
open Sys2Proof.Safety

/-- The first `k` bytes of a fetch, when they can be fetched, and the fetch of the bytes after them. -/
theorem fetchFrom_of_fetchable (c : Config) (m : Memory) (k n a : Nat) (hk : k ≤ n)
    (h : ∀ i < k, fetchStop c (a + i) = none) :
    fetchFrom c m n a =
      (((List.range k).map fun i => readByte m (a + i)) ++ (fetchFrom c m (n - k) (a + k)).1,
        (fetchFrom c m (n - k) (a + k)).2) := by
  induction k generalizing n a with
  | zero => simp
  | succ k ih =>
    obtain ⟨n, rfl⟩ : ∃ n', n = n' + 1 := ⟨n - 1, by omega⟩
    have h0 := h 0 (by omega)
    rw [Nat.add_zero] at h0
    rw [fetchFrom]
    simp only [h0]
    rw [ih n (a + 1) (by omega) fun i hi => by
      have := h (i + 1) (by omega)
      rwa [show a + 1 + i = a + (i + 1) by omega]]
    rw [show n + 1 - (k + 1) = n - k by omega, show a + 1 + k = a + (k + 1) by omega, List.range_succ_eq_map]
    simp [Nat.add_assoc, Nat.add_comm 1]

/-- A fetch gives at most as many bytes as are asked for. -/
theorem fetchFrom_length_le (c : Config) (m : Memory) (n a : Nat) : (fetchFrom c m n a).1.length ≤ n := by
  induction n generalizing a with
  | zero => simp [fetchFrom]
  | succ n ih =>
    rw [fetchFrom]
    split
    · simp
    · simpa using ih (a + 1)

/-- A fetch gives at most fifteen bytes (`30_encoding.md` R116). -/
theorem fetch_length_le (s : State) : (fetch s).1.length ≤ maxLen := fetchFrom_length_le ..

/-- Bytes that stand at the fetch address and can be fetched are the first that a fetch gives. -/
theorem fetch_of_textAt (s : State) (bs : List Byte) (hb : bs.length ≤ maxLen)
    (hp : TextAt s.mem (fetchAddress s) bs) (hf : Fetchable s bs.length) : ∃ rest, (fetch s).1 = bs ++ rest := by
  refine ⟨(fetchFrom s.cfg s.mem (maxLen - bs.length) (fetchAddress s + bs.length)).1, ?_⟩
  have : ((List.range bs.length).map fun i => readByte s.mem (fetchAddress s + i)) = bs := by
    apply List.ext_getElem
    · simp
    · intro i h1 h2
      simpa using hp i h2
  rw [fetch, fetchFrom_of_fetchable s.cfg s.mem bs.length maxLen _ hb hf, this]

/-- A step away from `endAddr`, with no debug facility armed, is what the fetched bytes decode to. -/
theorem step_eq_decoded (s : State) (h : ¬ Final s) (hd : NoDebug s.cfg) :
    step s = match decode s.cfg.mode (fetch s).1 with
      | .instr i _     => exec i s
      | .invalidOpcode => raise .ud
      | .rejected r    => .refused (.rejected r)
      | .truncated     => fetchEndOutcome (fetch s).2 := by
  unfold Final at h
  unfold NoDebug at hd
  simp only [step, h, hd, if_false, Bool.false_eq_true]
  all_goals rfl

/-- A step answers a next state in two ways: the run is final and the state stays, or no debug facility is armed and the
fetched bytes decode to an instruction that gives it. -/
theorem step_eq_next (s t : State) :
    step s = .next t ↔
      (Final s ∧ t = s) ∨
        (¬ Final s ∧ NoDebug s.cfg ∧
          ∃ i rest, decode s.cfg.mode (fetch s).1 = .instr i rest ∧ exec i s = .next t) := by
  by_cases h : Final s
  · have : step s = .next s := if_pos h
    simp [this, h, eq_comm]
  by_cases hd : NoDebug s.cfg
  · rw [step_eq_decoded s h hd]
    simp only [h, hd, false_and, false_or, not_false_eq_true, true_and]
    cases decode s.cfg.mode (fetch s).1 with
    | instr i rest => simp
    | invalidOpcode => simp [raise]
    | rejected r => simp
    | truncated => cases (fetch s).2 <;> simp [fetchEndOutcome, raise]
  · have : step s = .refused .debugArmed := by
      unfold step
      rw [if_neg (show ¬ s.rip = s.cfg.endAddr from h), if_pos (Bool.eq_true_of_not_eq_false hd)]
    simp [this, h, hd]

/-! ### A run, from its first step (R263) -/

/-- A run of any core, from its first step. -/
theorem coreRun_succ (M : Host.Core) (n : Nat) (s : M.State) :
    M.run (n + 1) s = match M.step s with
      | .next t    => M.run n t
      | .fault e   => .fault e
      | .refused r => .refused r := by
  rw [Host.Core.run.eq_def]
  all_goals (dsimp only; cases M.step s <;> rfl)

theorem run_succ_of_next {s t : State} (h : step s = .next t) (n : Nat) :
    Sys2Proof.core.run (n + 1) s = Sys2Proof.core.run n t :=
  (coreRun_succ Sys2Proof.core n s).trans (by rw [show Sys2Proof.core.step s = .next t from h])

theorem run_succ_of_fault {s : State} {e : Fault} (h : step s = .fault e) (n : Nat) :
    Sys2Proof.core.run (n + 1) s = .fault e :=
  (coreRun_succ Sys2Proof.core n s).trans (by rw [show Sys2Proof.core.step s = .fault e from h])

theorem run_succ_of_refused {s : State} {r : Refusal} (h : step s = .refused r) (n : Nat) :
    Sys2Proof.core.run (n + 1) s = .refused r :=
  (coreRun_succ Sys2Proof.core n s).trans (by rw [show Sys2Proof.core.step s = .refused r from h])

end Sys2Proof.Machine
end

