-- ==== Sys2Proof/Laws/PerInstr.lean ====
section
/-!
SUPPORT. The statement that is made per instruction: the bytes of an instruction are as many as its length
(`30_encoding.md` R115).
-/
namespace Sys2Proof.Laws

/-- There are as many prefix bytes as R115 counts. -/
theorem encodePrefixes_length (p : Prefixes) : (encodePrefixes p).length = p.count := by
  obtain ⟨seg, addr32, lock, opsize, repne, rep, rex⟩ := p
  cases seg <;> cases addr32 <;> cases lock <;> cases opsize <;> cases repne <;> cases rep <;> cases rex <;> rfl

/-- There are as many displacement bytes as R115 counts. -/
theorem disp_bytes_length (d : Disp) : d.bytes.length = d.count := by cases d <;> rfl

/-- ModR/M, SIB and displacement are as many bytes as R115 counts. -/
theorem encodeOperands_length (reg : BitVec 3) (rm : RM) : (encodeOperands reg rm).length = rm.count := by
  match rm with
  | .reg _ => rfl
  | .mem (.base _ d) => simp [encodeOperands, RM.count, disp_bytes_length, Nat.add_comm]
  | .mem (.dispOnly _) => rfl
  | .mem (.sib _ _ _ d) => simp [encodeOperands, RM.count, disp_bytes_length]; omega
  | .mem (.sibNoBase ..) => rfl

/-- The length of a legacy form. -/
theorem encodeLegacy_length (op : Byte) (f : LegacyForm) : (encodeLegacy op f).length = f.len := by
  simp only [encodeLegacy, LegacyForm.len, List.length_append, List.length_cons, encodePrefixes_length,
    encodeOperands_length]
  omega

/-- The length of a VEX form. -/
theorem encodeVex_length (op : Byte) (l : Bool) (f : VexForm) : (encodeVex op l f).length = f.len := by
  simp only [encodeVex, VexForm.len, List.length_append, List.length_cons, encodePrefixes_length,
    encodeOperands_length]
  omega

/-- The length of an EVEX form. -/
theorem encodeEvex_length (op : Byte) (ll : BitVec 2) (f : EvexForm) : (encodeEvex op ll f).length = f.len := by
  simp only [encodeEvex, EvexForm.len, List.length_append, List.length_cons, encodePrefixes_length,
    encodeOperands_length]
  omega

/-- An instruction's bytes are as many as its length (R115). -/
def EncodeLength.Statement (i : Instr) : Prop := (encode i).length = i.len

theorem EncodeLength.pabsbMm (f : LegacyForm) : EncodeLength.Statement (.pabsbMm f) := encodeLegacy_length _ f
theorem EncodeLength.pabsbXmm (f : LegacyForm) : EncodeLength.Statement (.pabsbXmm f) := encodeLegacy_length _ f
theorem EncodeLength.pabswMm (f : LegacyForm) : EncodeLength.Statement (.pabswMm f) := encodeLegacy_length _ f
theorem EncodeLength.pabswXmm (f : LegacyForm) : EncodeLength.Statement (.pabswXmm f) := encodeLegacy_length _ f
theorem EncodeLength.pabsdMm (f : LegacyForm) : EncodeLength.Statement (.pabsdMm f) := encodeLegacy_length _ f
theorem EncodeLength.pabsdXmm (f : LegacyForm) : EncodeLength.Statement (.pabsdXmm f) := encodeLegacy_length _ f
theorem EncodeLength.vpabsbVex128 (f : VexForm) : EncodeLength.Statement (.vpabsbVex128 f) := encodeVex_length _ _ f
theorem EncodeLength.vpabswVex128 (f : VexForm) : EncodeLength.Statement (.vpabswVex128 f) := encodeVex_length _ _ f
theorem EncodeLength.vpabsdVex128 (f : VexForm) : EncodeLength.Statement (.vpabsdVex128 f) := encodeVex_length _ _ f
theorem EncodeLength.vpabsbVex256 (f : VexForm) : EncodeLength.Statement (.vpabsbVex256 f) := encodeVex_length _ _ f
theorem EncodeLength.vpabswVex256 (f : VexForm) : EncodeLength.Statement (.vpabswVex256 f) := encodeVex_length _ _ f
theorem EncodeLength.vpabsdVex256 (f : VexForm) : EncodeLength.Statement (.vpabsdVex256 f) := encodeVex_length _ _ f
theorem EncodeLength.vpabsbEvex128 (f : EvexForm) : EncodeLength.Statement (.vpabsbEvex128 f) := encodeEvex_length _ _ f
theorem EncodeLength.vpabsbEvex256 (f : EvexForm) : EncodeLength.Statement (.vpabsbEvex256 f) := encodeEvex_length _ _ f
theorem EncodeLength.vpabsbEvex512 (f : EvexForm) : EncodeLength.Statement (.vpabsbEvex512 f) := encodeEvex_length _ _ f
theorem EncodeLength.vpabswEvex128 (f : EvexForm) : EncodeLength.Statement (.vpabswEvex128 f) := encodeEvex_length _ _ f
theorem EncodeLength.vpabswEvex256 (f : EvexForm) : EncodeLength.Statement (.vpabswEvex256 f) := encodeEvex_length _ _ f
theorem EncodeLength.vpabswEvex512 (f : EvexForm) : EncodeLength.Statement (.vpabswEvex512 f) := encodeEvex_length _ _ f
theorem EncodeLength.vpabsdEvex128 (f : EvexForm) : EncodeLength.Statement (.vpabsdEvex128 f) := encodeEvex_length _ _ f
theorem EncodeLength.vpabsdEvex256 (f : EvexForm) : EncodeLength.Statement (.vpabsdEvex256 f) := encodeEvex_length _ _ f
theorem EncodeLength.vpabsdEvex512 (f : EvexForm) : EncodeLength.Statement (.vpabsdEvex512 f) := encodeEvex_length _ _ f
theorem EncodeLength.vpabsqEvex128 (f : EvexForm) : EncodeLength.Statement (.vpabsqEvex128 f) := encodeEvex_length _ _ f
theorem EncodeLength.vpabsqEvex256 (f : EvexForm) : EncodeLength.Statement (.vpabsqEvex256 f) := encodeEvex_length _ _ f
theorem EncodeLength.vpabsqEvex512 (f : EvexForm) : EncodeLength.Statement (.vpabsqEvex512 f) := encodeEvex_length _ _ f

end Sys2Proof.Laws
end

