-- ==== Sys2Proof/Tests/Slice0.lean ====
section
/-!
SUPPORT. Small tests. The expected words and values are those of `95_test_vectors.md` (the vector is named in each
comment) or worked out by hand from the rule cited. The witnesses show, for each statement of
`Certificates/Slice0/Obligations.lean` that has hypotheses, a state and operands that meet them.
-/
namespace Sys2Proof.Tests

-- One theorem at a time: so many kernel evaluations at once can exhaust the compiler's threads.
set_option Elab.async false
open Sys2Proof.Machine Sys2Proof.Safety

/-! ### Forms and states -/

/-- A legacy form with destination 1; `66` present in an xmm form. -/
def legacyForm (xmm : Bool) (rm : RM) : LegacyForm := { pfx := { opsize := xmm }, reg := 1#3, rm := rm }

/-- A VEX form with destination 1 and no reserved field set. -/
def vexForm (rm : RM) : VexForm :=
  { pfx := {}, rBar := true, xBar := true, bBar := true, w := false, vvvv := 15#4, reg := 1#3, rm := rm }

/-- An EVEX form with destination 1, `W` and `aaa` as given and no reserved field set. -/
def evexForm (w : Bool) (aaa : BitVec 3) (rm : RM) : EvexForm :=
  { pfx := {}, rBar := true, xBar := true, bBar := true, rHiBar := true, p0Fixed := 0#2, w := w, vvvv := 15#4,
    p1Fixed := true, z := false, b := false, vHiBar := true, aaa := aaa, reg := 1#3, rm := rm }

/-- The memory operand `[rax]`. -/
def atRax : RM := .mem (.base 0#3 .d0)

/-- The state after reset with the instruction pointer at 400000H. -/
def start : State := { State.reset with rip := 0x400000#64 }

/-- `start` in 32-bit mode. -/
def start32 : State := { start with cfg := { start.cfg with mode := .mode32 } }

/-- A general register set. -/
def setGpr (s : State) (i : BitVec 4) (v : BitVec 64) : State := { s with gpr := s.gpr.set i.toNat v i.isLt }

/-- An opmask register set. -/
def setK (s : State) (i : BitVec 3) (v : BitVec 64) : State := { s with k := s.k.set i.toNat v i.isLt }

/-- Bytes stored at an address. -/
def store (s : State) (a : Nat) (bs : List Byte) : State := { s with mem := writeBytes s.mem a bs }

/-- The environment changed. -/
def setEnv (s : State) (g : Env → Env) : State := { s with cfg := { s.cfg with env := g s.cfg.env } }

/-- The feature flags changed. -/
def setFeat (s : State) (g : Features → Features) : State := { s with cfg := { s.cfg with feat := g s.cfg.feat } }

/-- One step on the bytes at the instruction pointer. -/
def stepOn (s : State) (bs : List Byte) : Host.Outcome State Fault Refusal := step (s.placeBytes bs)

/-- A vector register and the instruction pointer after a step, if there is a next state. -/
def zmmAfter (o : Host.Outcome State Fault Refusal) (i : BitVec 5) : Option (BitVec 512 × BitVec 64) :=
  match o with
  | .next t => some (t.zmmReg i, t.rip)
  | _ => none

/-- An MMX register and the instruction pointer after a step, if there is a next state. -/
def mmAfter (o : Host.Outcome State Fault Refusal) (i : BitVec 3) : Option (BitVec 64 × BitVec 64) :=
  match o with
  | .next t => some (t.mmReg i, t.rip)
  | _ => none

/-- The fault a step ends in, if it does. -/
def faultOf (o : Host.Outcome State Fault Refusal) : Option Fault :=
  match o with
  | .fault e => some e
  | _ => none

/-- The refusal a step ends in, if it does. -/
def refusalOf (o : Host.Outcome State Fault Refusal) : Option Refusal :=
  match o with
  | .refused r => some r
  | _ => none

/-- The values `X`, `Y` and `Z` of 95 sections 2.2 to 2.4, and `OLD`, every byte AA. -/
def valX : BitVec 512 := 0x80000000FFFFFFFF80FF7F0100FE8180#512
def valY : BitVec 512 := 0xFFFFFFFF800000007FFFFFFF000000008000800080008000FF01FE02FD03FC04#512
def valZ : BitVec 512 :=
  0x8000000000000000FFFFFFFFFFFFFFFF00000000000000017FFFFFFFFFFFFFFFFFFFFFFF800000007FFFFFFF000000008000800080008000FF01FE02FD03FC04#512
def valOld : BitVec 512 :=
  0xAAAAAAAAAAAAAAAAAAAAAAAAAAAAAAAAAAAAAAAAAAAAAAAAAAAAAAAAAAAAAAAAAAAAAAAAAAAAAAAAAAAAAAAAAAAAAAAAAAAAAAAAAAAAAAAAAAAAAAAAAAAAAAAA#512

/-- The 32 bytes of the low half of a value, the lowest first. -/
def wordBytes32 (v : BitVec 512) : List Byte := (List.range 32).map fun i => v.extractLsb' (8 * i) 8

/-! ### WellFormed refuses an ill-formed term for each of its checks -/

theorem test_wf_base_sib : (MemRef.base 4#3 .d0).wellFormed = false := by decide
theorem test_wf_base_no_disp : (MemRef.base 5#3 .d0).wellFormed = false := by decide
theorem test_wf_sib_no_disp : (MemRef.sib 0#2 0#3 5#3 .d0).wellFormed = false := by decide
theorem test_wf_operand_in_form : (Instr.pabsbMm (legacyForm false (.mem (.base 4#3 .d0)))).wellFormed .mode64 = false ∧
    (Instr.vpabsbVex128 (vexForm (.mem (.base 5#3 .d0)))).wellFormed .mode64 = false ∧
    (Instr.vpabsbEvex128 (evexForm false 0 (.mem (.sib 0#2 0#3 5#3 .d0)))).wellFormed .mode64 = false := by decide
theorem test_wf_null_segment : (Prefixes.wellFormed { seg := some .cs } .mode64) = false := by decide
theorem test_wf_addr32_mode32 : (Prefixes.wellFormed { addr32 := true } .mode32) = false := by decide
theorem test_wf_rex_mode32 :
    (Prefixes.wellFormed { rex := some { w := false, r := false, x := false, b := false } } .mode32) = false := by decide
theorem test_wf_repne : (Instr.pabsbMm { legacyForm false (.reg 2) with pfx := { repne := true } }).wellFormed .mode64 =
    false := by decide
theorem test_wf_rep : (Instr.pabsbMm { legacyForm false (.reg 2) with pfx := { rep := true } }).wellFormed .mode64 =
    false := by decide
theorem test_wf_mm_with_66 : (Instr.pabswMm (legacyForm true (.reg 2))).wellFormed .mode64 = false := by decide
theorem test_wf_xmm_without_66 : (Instr.pabsdXmm (legacyForm false (.reg 2))).wellFormed .mode64 = false := by decide
theorem test_wf_mm_rex_r : (Instr.pabsdMm { legacyForm false atRax with
    pfx := { rex := some { w := false, r := true, x := false, b := false } } }).wellFormed .mode64 = false := by decide
theorem test_wf_mm_rex_b : (Instr.pabsdMm { legacyForm false (.reg 2) with
    pfx := { rex := some { w := false, r := false, x := false, b := true } } }).wellFormed .mode64 = false := by decide
theorem test_wf_vex_mode32 : (VexForm.wellFormed { vexForm (.reg 2) with rBar := false } .mode32) = false ∧
    (VexForm.wellFormed { vexForm (.reg 2) with xBar := false } .mode32) = false ∧
    (VexForm.wellFormed { vexForm (.reg 2) with bBar := false } .mode32) = false := by decide
theorem test_wf_evex_mode32 : (EvexForm.wellFormed { evexForm false 0 (.reg 2) with rBar := false } .mode32) = false ∧
    (EvexForm.wellFormed { evexForm false 0 (.reg 2) with xBar := false } .mode32) = false ∧
    (EvexForm.wellFormed { evexForm false 0 (.reg 2) with bBar := false } .mode32) = false ∧
    (EvexForm.wellFormed { evexForm false 0 (.reg 2) with rHiBar := false } .mode32) = false := by decide
theorem test_wf_vpabsd_w : (Instr.vpabsdEvex128 (evexForm true 0 (.reg 2))).wellFormed .mode64 = false ∧
    (Instr.vpabsdEvex256 (evexForm true 0 (.reg 2))).wellFormed .mode64 = false ∧
    (Instr.vpabsdEvex512 (evexForm true 0 (.reg 2))).wellFormed .mode64 = false := by decide
theorem test_wf_vpabsq_w : (Instr.vpabsqEvex128 (evexForm false 0 (.reg 2))).wellFormed .mode64 = false ∧
    (Instr.vpabsqEvex256 (evexForm false 0 (.reg 2))).wellFormed .mode64 = false ∧
    (Instr.vpabsqEvex512 (evexForm false 0 (.reg 2))).wellFormed .mode64 = false := by decide

/-! ### Decoding: the canonical word of each form (95 section 2.5), both ways -/

theorem test_decode_pabsbMm : decode .mode64 [0x0F#8, 0x38#8, 0x1C#8, 0xCA#8] = .instr (.pabsbMm (legacyForm false (.reg 2))) [] ∧
    encode (.pabsbMm (legacyForm false (.reg 2))) = [0x0F#8, 0x38#8, 0x1C#8, 0xCA#8] := by decide
theorem test_decode_pabsbXmm : decode .mode64 [0x66#8, 0x0F#8, 0x38#8, 0x1C#8, 0xCA#8] = .instr (.pabsbXmm (legacyForm true (.reg 2))) [] ∧
    encode (.pabsbXmm (legacyForm true (.reg 2))) = [0x66#8, 0x0F#8, 0x38#8, 0x1C#8, 0xCA#8] := by decide
theorem test_decode_pabswMm : decode .mode64 [0x0F#8, 0x38#8, 0x1D#8, 0xCA#8] = .instr (.pabswMm (legacyForm false (.reg 2))) [] ∧
    encode (.pabswMm (legacyForm false (.reg 2))) = [0x0F#8, 0x38#8, 0x1D#8, 0xCA#8] := by decide
theorem test_decode_pabswXmm : decode .mode64 [0x66#8, 0x0F#8, 0x38#8, 0x1D#8, 0xCA#8] = .instr (.pabswXmm (legacyForm true (.reg 2))) [] ∧
    encode (.pabswXmm (legacyForm true (.reg 2))) = [0x66#8, 0x0F#8, 0x38#8, 0x1D#8, 0xCA#8] := by decide
theorem test_decode_pabsdMm : decode .mode64 [0x0F#8, 0x38#8, 0x1E#8, 0xCA#8] = .instr (.pabsdMm (legacyForm false (.reg 2))) [] ∧
    encode (.pabsdMm (legacyForm false (.reg 2))) = [0x0F#8, 0x38#8, 0x1E#8, 0xCA#8] := by decide
theorem test_decode_pabsdXmm : decode .mode64 [0x66#8, 0x0F#8, 0x38#8, 0x1E#8, 0xCA#8] = .instr (.pabsdXmm (legacyForm true (.reg 2))) [] ∧
    encode (.pabsdXmm (legacyForm true (.reg 2))) = [0x66#8, 0x0F#8, 0x38#8, 0x1E#8, 0xCA#8] := by decide
theorem test_decode_vpabsbVex128 : decode .mode64 [0xC4#8, 0xE2#8, 0x79#8, 0x1C#8, 0xCA#8] = .instr (.vpabsbVex128 (vexForm (.reg 2))) [] ∧
    encode (.vpabsbVex128 (vexForm (.reg 2))) = [0xC4#8, 0xE2#8, 0x79#8, 0x1C#8, 0xCA#8] := by decide
theorem test_decode_vpabswVex128 : decode .mode64 [0xC4#8, 0xE2#8, 0x79#8, 0x1D#8, 0xCA#8] = .instr (.vpabswVex128 (vexForm (.reg 2))) [] ∧
    encode (.vpabswVex128 (vexForm (.reg 2))) = [0xC4#8, 0xE2#8, 0x79#8, 0x1D#8, 0xCA#8] := by decide
theorem test_decode_vpabsdVex128 : decode .mode64 [0xC4#8, 0xE2#8, 0x79#8, 0x1E#8, 0xCA#8] = .instr (.vpabsdVex128 (vexForm (.reg 2))) [] ∧
    encode (.vpabsdVex128 (vexForm (.reg 2))) = [0xC4#8, 0xE2#8, 0x79#8, 0x1E#8, 0xCA#8] := by decide
theorem test_decode_vpabsbVex256 : decode .mode64 [0xC4#8, 0xE2#8, 0x7D#8, 0x1C#8, 0xCA#8] = .instr (.vpabsbVex256 (vexForm (.reg 2))) [] ∧
    encode (.vpabsbVex256 (vexForm (.reg 2))) = [0xC4#8, 0xE2#8, 0x7D#8, 0x1C#8, 0xCA#8] := by decide
theorem test_decode_vpabswVex256 : decode .mode64 [0xC4#8, 0xE2#8, 0x7D#8, 0x1D#8, 0xCA#8] = .instr (.vpabswVex256 (vexForm (.reg 2))) [] ∧
    encode (.vpabswVex256 (vexForm (.reg 2))) = [0xC4#8, 0xE2#8, 0x7D#8, 0x1D#8, 0xCA#8] := by decide
theorem test_decode_vpabsdVex256 : decode .mode64 [0xC4#8, 0xE2#8, 0x7D#8, 0x1E#8, 0xCA#8] = .instr (.vpabsdVex256 (vexForm (.reg 2))) [] ∧
    encode (.vpabsdVex256 (vexForm (.reg 2))) = [0xC4#8, 0xE2#8, 0x7D#8, 0x1E#8, 0xCA#8] := by decide
theorem test_decode_vpabsbEvex128 : decode .mode64 [0x62#8, 0xF2#8, 0x7D#8, 0x08#8, 0x1C#8, 0xCA#8] = .instr (.vpabsbEvex128 (evexForm false 0 (.reg 2))) [] ∧
    encode (.vpabsbEvex128 (evexForm false 0 (.reg 2))) = [0x62#8, 0xF2#8, 0x7D#8, 0x08#8, 0x1C#8, 0xCA#8] := by decide
theorem test_decode_vpabsbEvex256 : decode .mode64 [0x62#8, 0xF2#8, 0x7D#8, 0x28#8, 0x1C#8, 0xCA#8] = .instr (.vpabsbEvex256 (evexForm false 0 (.reg 2))) [] ∧
    encode (.vpabsbEvex256 (evexForm false 0 (.reg 2))) = [0x62#8, 0xF2#8, 0x7D#8, 0x28#8, 0x1C#8, 0xCA#8] := by decide
theorem test_decode_vpabsbEvex512 : decode .mode64 [0x62#8, 0xF2#8, 0x7D#8, 0x48#8, 0x1C#8, 0xCA#8] = .instr (.vpabsbEvex512 (evexForm false 0 (.reg 2))) [] ∧
    encode (.vpabsbEvex512 (evexForm false 0 (.reg 2))) = [0x62#8, 0xF2#8, 0x7D#8, 0x48#8, 0x1C#8, 0xCA#8] := by decide
theorem test_decode_vpabswEvex128 : decode .mode64 [0x62#8, 0xF2#8, 0x7D#8, 0x08#8, 0x1D#8, 0xCA#8] = .instr (.vpabswEvex128 (evexForm false 0 (.reg 2))) [] ∧
    encode (.vpabswEvex128 (evexForm false 0 (.reg 2))) = [0x62#8, 0xF2#8, 0x7D#8, 0x08#8, 0x1D#8, 0xCA#8] := by decide
theorem test_decode_vpabswEvex256 : decode .mode64 [0x62#8, 0xF2#8, 0x7D#8, 0x28#8, 0x1D#8, 0xCA#8] = .instr (.vpabswEvex256 (evexForm false 0 (.reg 2))) [] ∧
    encode (.vpabswEvex256 (evexForm false 0 (.reg 2))) = [0x62#8, 0xF2#8, 0x7D#8, 0x28#8, 0x1D#8, 0xCA#8] := by decide
theorem test_decode_vpabswEvex512 : decode .mode64 [0x62#8, 0xF2#8, 0x7D#8, 0x48#8, 0x1D#8, 0xCA#8] = .instr (.vpabswEvex512 (evexForm false 0 (.reg 2))) [] ∧
    encode (.vpabswEvex512 (evexForm false 0 (.reg 2))) = [0x62#8, 0xF2#8, 0x7D#8, 0x48#8, 0x1D#8, 0xCA#8] := by decide
theorem test_decode_vpabsdEvex128 : decode .mode64 [0x62#8, 0xF2#8, 0x7D#8, 0x08#8, 0x1E#8, 0xCA#8] = .instr (.vpabsdEvex128 (evexForm false 0 (.reg 2))) [] ∧
    encode (.vpabsdEvex128 (evexForm false 0 (.reg 2))) = [0x62#8, 0xF2#8, 0x7D#8, 0x08#8, 0x1E#8, 0xCA#8] := by decide
theorem test_decode_vpabsdEvex256 : decode .mode64 [0x62#8, 0xF2#8, 0x7D#8, 0x28#8, 0x1E#8, 0xCA#8] = .instr (.vpabsdEvex256 (evexForm false 0 (.reg 2))) [] ∧
    encode (.vpabsdEvex256 (evexForm false 0 (.reg 2))) = [0x62#8, 0xF2#8, 0x7D#8, 0x28#8, 0x1E#8, 0xCA#8] := by decide
theorem test_decode_vpabsdEvex512 : decode .mode64 [0x62#8, 0xF2#8, 0x7D#8, 0x48#8, 0x1E#8, 0xCA#8] = .instr (.vpabsdEvex512 (evexForm false 0 (.reg 2))) [] ∧
    encode (.vpabsdEvex512 (evexForm false 0 (.reg 2))) = [0x62#8, 0xF2#8, 0x7D#8, 0x48#8, 0x1E#8, 0xCA#8] := by decide
theorem test_decode_vpabsqEvex128 : decode .mode64 [0x62#8, 0xF2#8, 0xFD#8, 0x08#8, 0x1F#8, 0xCA#8] = .instr (.vpabsqEvex128 (evexForm true 0 (.reg 2))) [] ∧
    encode (.vpabsqEvex128 (evexForm true 0 (.reg 2))) = [0x62#8, 0xF2#8, 0xFD#8, 0x08#8, 0x1F#8, 0xCA#8] := by decide
theorem test_decode_vpabsqEvex256 : decode .mode64 [0x62#8, 0xF2#8, 0xFD#8, 0x28#8, 0x1F#8, 0xCA#8] = .instr (.vpabsqEvex256 (evexForm true 0 (.reg 2))) [] ∧
    encode (.vpabsqEvex256 (evexForm true 0 (.reg 2))) = [0x62#8, 0xF2#8, 0xFD#8, 0x28#8, 0x1F#8, 0xCA#8] := by decide
theorem test_decode_vpabsqEvex512 : decode .mode64 [0x62#8, 0xF2#8, 0xFD#8, 0x48#8, 0x1F#8, 0xCA#8] = .instr (.vpabsqEvex512 (evexForm true 0 (.reg 2))) [] ∧
    encode (.vpabsqEvex512 (evexForm true 0 (.reg 2))) = [0x62#8, 0xF2#8, 0xFD#8, 0x48#8, 0x1F#8, 0xCA#8] := by decide

/-! ### Decoding: prefixes, addressing, extension bits (95 sections 2.2 to 2.4) -/

/-- L-9: FS override, REX and SIB with `disp8` FC. -/
theorem test_decode_l9 : decode .mode64 [0x64#8, 0x66#8, 0x47#8, 0x0F#8, 0x38#8, 0x1C#8, 0x4C#8, 0xC8#8, 0xFC#8] =
    .instr (.pabsbXmm { pfx := { seg := some .fs, opsize := true,
                                 rex := some { w := false, r := true, x := true, b := true } },
                         reg := 1#3, rm := .mem (.sib 3#2 1#3 0#3 (.d8 0xFC#8)) }) [] := by decide
/-- L-6: a SIB byte without an index. -/
theorem test_decode_l6 : decode .mode64 [0x66#8, 0x0F#8, 0x38#8, 0x1E#8, 0x6C#8, 0x24#8, 0x10#8] =
    .instr (.pabsdXmm { pfx := { opsize := true }, reg := 5#3, rm := .mem (.sib 0#2 4#3 4#3 (.d8 0x10#8)) }) [] := by decide
/-- L-10: `disp32` alone in 32-bit mode. -/
theorem test_decode_l10 : decode .mode32 [0x66#8, 0x0F#8, 0x38#8, 0x1E#8, 0x0D#8, 0x00#8, 0x10#8, 0x00#8, 0x00#8] =
    .instr (.pabsdXmm { pfx := { opsize := true }, reg := 1#3, rm := .mem (.dispOnly 0x1000#32) }) [] := by decide
/-- V-6: R̄ and B̄ both 0. -/
theorem test_decode_v6 : decode .mode64 [0xC4#8, 0x42#8, 0x7D#8, 0x1E#8, 0xC8#8] =
    .instr (.vpabsdVex256 { vexForm (.reg 0) with rBar := false, bBar := false }) [] := by decide
/-- E-2: X̄ extends a register source. -/
theorem test_decode_e2 : decode .mode64 [0x62#8, 0xB2#8, 0x7D#8, 0x0B#8, 0x1D#8, 0xCA#8] =
    .instr (.vpabswEvex128 { evexForm false 3 (.reg 2) with xBar := false }) [] := by decide
/-- E-14: z and aaa, and [r12]. -/
theorem test_decode_e14 : decode .mode64 [0x62#8, 0xD2#8, 0x7D#8, 0xA9#8, 0x1C#8, 0x14#8, 0x24#8] =
    .instr (.vpabsbEvex256 { evexForm false 1 (.mem (.sib 0#2 4#3 4#3 .d0)) with
                             bBar := false, z := true, reg := 2#3 }) [] := by decide
/-- A SIB byte without a base (R104), then one byte more. -/
theorem test_decode_sib_no_base : decode .mode64 [0x0F#8, 0x38#8, 0x1C#8, 0x0C#8, 0x8D#8, 0x78#8, 0x56#8, 0x34#8, 0x12#8, 0x99#8] =
    .instr (.pabsbMm (legacyForm false (.mem (.sibNoBase 2#2 1#3 0x12345678#32)))) [0x99#8] := by decide
/-- X9: L'L = 11b. -/
theorem test_decode_x9 : decode .mode64 [0x62#8, 0xF2#8, 0x7D#8, 0x68#8, 0x1E#8, 0xCA#8] =
    .invalidOpcode := by decide
/-- X27: REX.R on an MMX form. -/
theorem test_decode_x27 : decode .mode64 [0x44#8, 0x0F#8, 0x38#8, 0x1C#8, 0xC8#8] =
    .rejected .mmxRexExtension := by decide
/-- X28: F3 before a legacy form. -/
theorem test_decode_x28_f3 : decode .mode64 [0xF3#8, 0x0F#8, 0x38#8, 0x1C#8, 0xCA#8] =
    .rejected .repBeforeLegacy := by decide
/-- X28: 66 twice. -/
theorem test_decode_x28_66 : decode .mode64 [0x66#8, 0x66#8, 0x0F#8, 0x38#8, 0x1C#8, 0xCA#8] =
    .rejected .repeatedPrefix := by decide
/-- X29: the two-byte VEX byte. -/
theorem test_decode_x29 : decode .mode64 [0xC5#8, 0xF9#8, 0x1C#8, 0xCA#8] =
    .rejected .notInGroup := by decide
/-- X30: opcode 1F in the legacy class. -/
theorem test_decode_x30_legacy : decode .mode64 [0x66#8, 0x0F#8, 0x38#8, 0x1F#8, 0xCA#8] =
    .rejected .notInGroup := by decide
/-- X30: EVEX 1E with W1. -/
theorem test_decode_x30_1e_w1 : decode .mode64 [0x62#8, 0xF2#8, 0xFD#8, 0x08#8, 0x1E#8, 0xCA#8] =
    .rejected .notInGroup := by decide
/-- C4 in 32-bit mode is LES unless bits 7:6 of the next byte are 11b (R95). -/
theorem test_decode_les : decode .mode32 [0xC4#8, 0x62#8, 0x79#8, 0x1C#8, 0xCA#8] =
    .rejected .notInGroup := by decide
/-- A DS override in 64-bit mode (R107). -/
theorem test_decode_override : decode .mode64 [0x3E#8, 0x0F#8, 0x38#8, 0x1C#8, 0xCA#8] =
    .rejected .nullSegmentOverride := by decide
/-- LOCK and REX.R on an MMX form: refused, the model's choice (R109 before R121, log 13). -/
theorem test_decode_lock_rex_r : decode .mode64 [0xF0#8, 0x44#8, 0x0F#8, 0x38#8, 0x1C#8, 0xC8#8] =
    .rejected .mmxRexExtension := by decide
/-- A REX byte before 66 (R92). -/
theorem test_decode_rex_before_66 : decode .mode64 [0x41#8, 0x66#8, 0x0F#8, 0x38#8, 0x1C#8, 0xCA#8] =
    .rejected .misplacedRex := by decide
/-- 67 in 32-bit mode (R105). -/
theorem test_decode_addr16 : decode .mode32 [0x67#8, 0x0F#8, 0x38#8, 0x1C#8, 0xCA#8] =
    .rejected .addressSize16 := by decide
/-- 66 before a VEX escape of another opcode is `#UD` (R121, log 14). -/
theorem test_decode_stray_unlisted : decode .mode64 [0x66#8, 0xC4#8, 0xE2#8, 0x79#8, 0x1F#8, 0xCA#8] =
    .invalidOpcode := by decide

/-! ### The opcode table's words -/

theorem test_table_word_row1 : decodeTableWord 24 0x1C380F = some (.pabsbMm { legacyForm false atRax with reg := 0 }) := by
  decide
theorem test_table_word_row7 : decodeTableWord 32 0x1C0102C4 =
    some (.vpabsbVex128 { pfx := {}, rBar := false, xBar := false, bBar := false, w := false, vvvv := 0#4, reg := 0#3,
                          rm := .mem (.base 0#3 .d0) }) := by decide
theorem test_placed_word_runs :
    mmAfter (step (State.reset.withFetchWord 24 0x1C380F)) 0#3 = some (0#64, 0xFFFFFFF4#64) := by decide +kernel

/-! ### Results, one step each -/

theorem test_reset_memory_wf : Memory.wf State.reset.mem = true := by decide

/-- The MMX forms: PABSB, PABSW, PABSD (95 section 2.2). -/
theorem test_results_mmx :
    -- L-1.
    mmAfter (stepOn (start.setMm 2 0x80FF7F0100FE8180#64) [0x0F#8, 0x38#8, 0x1C#8, 0xCA#8]) 1 =
      some (0x80017F0100027F80#64, 0x400004#64) ∧
    -- L-3.
    mmAfter (stepOn (start.setMm 7 0x80FF7F0100FE8180#64) [0x0F#8, 0x38#8, 0x1D#8, 0xC7#8]) 0 =
      some (0x7F017F0100FE7E80#64, 0x400004#64) ∧
    -- L-5, an address that is not a multiple of 8.
    mmAfter (stepOn (store (setGpr start 3 0x2003#64) 0x200B [0x80#8, 0x81#8, 0xFE#8, 0x00#8, 0x01#8, 0x7F#8, 0xFF#8, 0x80#8]) [0x0F#8, 0x38#8, 0x1E#8, 0x5B#8, 0x08#8]) 3 =
      some (0x7F0080FF00FE8180#64, 0x400005#64) ∧
    -- L-7, source and destination the same.
    mmAfter (stepOn (start.setMm 3 0x80000000FFFFFFFF#64) [0x0F#8, 0x38#8, 0x1E#8, 0xDB#8]) 3 =
      some (0x8000000000000001#64, 0x400004#64) := by decide +kernel
/-- The legacy xmm forms: PABSB, PABSW, PABSD (95 section 2.2). -/
theorem test_results_xmm :
    -- L-2, the upper bits kept.
    zmmAfter (stepOn ((start.setZmm 1 valOld).setZmm 2 valX) [0x66#8, 0x0F#8, 0x38#8, 0x1C#8, 0xCA#8]) 1 =
      some (0xAAAAAAAAAAAAAAAAAAAAAAAAAAAAAAAAAAAAAAAAAAAAAAAAAAAAAAAAAAAAAAAAAAAAAAAAAAAAAAAAAAAAAAAAAAAAAAAA800000000101010180017F0100027F80#512, 0x400005#64) ∧
    -- L-4, registers 8 and 9.
    zmmAfter (stepOn (start.setZmm 9 valX) [0x66#8, 0x45#8, 0x0F#8, 0x38#8, 0x1D#8, 0xC1#8]) 8 =
      some (0x80000000000100017F017F0100FE7E80#512, 0x400006#64) ∧
    -- L-6.
    zmmAfter (stepOn (store (setGpr start 4 0x2000#64) 0x2010 [0x80#8, 0x81#8, 0xFE#8, 0x00#8, 0x01#8, 0x7F#8, 0xFF#8, 0x80#8, 0xFF#8, 0xFF#8, 0xFF#8, 0xFF#8, 0x00#8, 0x00#8, 0x00#8, 0x80#8]) [0x66#8, 0x0F#8, 0x38#8, 0x1E#8, 0x6C#8, 0x24#8, 0x10#8]) 5 =
      some (0x80000000000000017F0080FF00FE8180#512, 0x400007#64) := by decide +kernel
/-- The six VEX forms (95 section 2.3). -/
theorem test_results_vex :
    -- V-1, the upper bits zeroed.
    zmmAfter (stepOn ((start.setZmm 1 valOld).setZmm 2 valY) [0xC4#8, 0xE2#8, 0x79#8, 0x1C#8, 0xCA#8]) 1 =
      some (0x80008000800080000101020203030404#512, 0x400005#64) ∧
    -- V-2, an odd address.
    zmmAfter (stepOn (store (setGpr start 7 0x2001#64) 0x2001 [0x04#8, 0xFC#8, 0x03#8, 0xFD#8, 0x02#8, 0xFE#8, 0x01#8, 0xFF#8, 0x00#8, 0x80#8, 0x00#8, 0x80#8, 0x00#8, 0x80#8, 0x00#8, 0x80#8]) [0xC4#8, 0x62#8, 0x79#8, 0x1D#8, 0x3F#8]) 15 =
      some (0x800080008000800000FF01FE02FD03FC#512, 0x400005#64) ∧
    -- V-3.
    zmmAfter (stepOn (start.setZmm 12 valY) [0xC4#8, 0xC2#8, 0x79#8, 0x1E#8, 0xDC#8]) 3 =
      some (0x7FFF80007FFF800000FE01FE02FC03FC#512, 0x400005#64) ∧
    -- V-4.
    zmmAfter (stepOn ((start.setZmm 1 valOld).setZmm 2 valY) [0xC4#8, 0xE2#8, 0x7D#8, 0x1C#8, 0xCA#8]) 1 =
      some (0x1010101800000007F0101010000000080008000800080000101020203030404#512, 0x400005#64) ∧
    -- V-5.
    zmmAfter (stepOn (store (setGpr (setGpr start 6 0x2001#64) 1 0x10#64) 0x2061
      (wordBytes32 valY)) [0xC4#8, 0xE2#8, 0x7D#8, 0x1D#8, 0x7C#8, 0x8E#8, 0x20#8]) 7 =
      some (0x10001800000007FFF000100000000800080008000800000FF01FE02FD03FC#512, 0x400007#64) ∧
    -- V-6.
    zmmAfter (stepOn (start.setZmm 8 valY) [0xC4#8, 0x42#8, 0x7D#8, 0x1E#8, 0xC8#8]) 9 =
      some (0x1800000007FFFFFFF000000007FFF80007FFF800000FE01FE02FC03FC#512, 0x400005#64) := by decide +kernel
/-- The EVEX forms of VPABSB and VPABSW (95 section 2.4, Program 3). -/
theorem test_results_evex_bw :
    -- E-1.
    zmmAfter (stepOn ((start.setZmm 1 valOld).setZmm 2 valX) [0x62#8, 0xF2#8, 0x7D#8, 0x08#8, 0x1C#8, 0xCA#8]) 1 =
      some (0x800000000101010180017F0100027F80#512, 0x400006#64) ∧
    -- E-14 with the mask F: zeroing of the bytes above.
    zmmAfter (stepOn ((setK (store (setGpr start 12 0x2001#64) 0x2001 (wordBytes32 valY)) 1 0xF#64).setZmm 2 valOld) [0x62#8, 0xD2#8, 0x7D#8, 0xA9#8, 0x1C#8, 0x14#8, 0x24#8]) 2 =
      some (0x3030404#512, 0x400007#64) ∧
    -- `disp8` FF scaled by 64.
    zmmAfter (stepOn (store (setGpr start 0 0x3040#64) 0x3000 [0x80#8, 0xFF#8]) [0x62#8, 0xF2#8, 0x7D#8, 0x48#8, 0x1C#8, 0x48#8, 0xFF#8]) 1 =
      some (0x180#512, 0x400007#64) ∧
    -- E-2, merging.
    zmmAfter (stepOn (setK ((start.setZmm 1 valOld).setZmm 18 valX) 3 0x55#64) [0x62#8, 0xB2#8, 0x7D#8, 0x0B#8, 0x1D#8, 0xCA#8]) 1 =
      some (0xAAAA0000AAAA0001AAAA7F01AAAA7E80#512, 0x400006#64) ∧
    -- Program 3, step 3: zmm19.
    zmmAfter (stepOn ((start.setZmm 19 valOld).setZmm 2 0x11111111111111110000000000000007#512) [0x62#8, 0xE2#8, 0x7D#8, 0x28#8, 0x1D#8, 0xDA#8]) 19 =
      some (0x11111111111111110000000000000007#512, 0x400006#64) ∧
    -- E-8.
    zmmAfter (stepOn (start.setZmm 2 valZ) [0x62#8, 0xF2#8, 0x7D#8, 0x48#8, 0x1D#8, 0xCA#8]) 1 =
      some (0x8000000000000000000100010001000100000000000000017FFF00010001000100010001800000007FFF000100000000800080008000800000FF01FE02FD03FC#512, 0x400006#64) := by decide +kernel
/-- The EVEX forms of VPABSD and VPABSQ (95 section 2.4). -/
theorem test_results_evex_dq :
    -- E-3.
    zmmAfter (stepOn (store (setGpr start 0 0x2001#64) 0x2001 [0xFE#8, 0xFF#8, 0xFF#8, 0xFF#8]) [0x62#8, 0xF2#8, 0x7D#8, 0x18#8, 0x1E#8, 0x08#8]) 1 =
      some (0x2000000020000000200000002#512, 0x400006#64) ∧
    -- E-11: only the KL low mask bits are read.
    zmmAfter (stepOn (setK ((start.setZmm 1 valOld).setZmm 2 valX) 1 0xFFFFFFFFFFFFFFF0#64) [0x62#8, 0xF2#8, 0x7D#8, 0x09#8, 0x1E#8, 0xCA#8]) 1 =
      some (0xAAAAAAAAAAAAAAAAAAAAAAAAAAAAAAAA#512, 0x400006#64) ∧
    -- The values of V-6 without a mask.
    zmmAfter (stepOn ((start.setZmm 1 valOld).setZmm 2 valY) [0x62#8, 0xF2#8, 0x7D#8, 0x28#8, 0x1E#8, 0xCA#8]) 1 =
      some (0x1800000007FFFFFFF000000007FFF80007FFF800000FE01FE02FC03FC#512, 0x400006#64) ∧
    -- E-4, zeroing.
    zmmAfter (stepOn (setK ((start.setZmm 1 valOld).setZmm 2 valZ) 1 0xFF#64) [0x62#8, 0xF2#8, 0x7D#8, 0xC9#8, 0x1E#8, 0xCA#8]) 1 =
      some (0x1800000007FFFFFFF000000007FFF80007FFF800000FE01FE02FC03FC#512, 0x400006#64) ∧
    -- E-5, merging.
    zmmAfter (stepOn (setK ((start.setZmm 1 valOld).setZmm 2 valX) 1 2#64) [0x62#8, 0xF2#8, 0xFD#8, 0x09#8, 0x1F#8, 0xCA#8]) 1 =
      some (0x7FFFFFFF00000001AAAAAAAAAAAAAAAA#512, 0x400006#64) ∧
    -- E-6, `disp8` scaled by 8.
    zmmAfter (stepOn (store (setGpr start 0 0x2001#64) 0x2009 [0xFB#8, 0xFF#8, 0xFF#8, 0xFF#8, 0xFF#8, 0xFF#8, 0xFF#8, 0xFF#8]) [0x62#8, 0xF2#8, 0xFD#8, 0x38#8, 0x1F#8, 0x48#8, 0x01#8]) 1 =
      some (0x5000000000000000500000000000000050000000000000005#512, 0x400007#64) ∧
    -- E-7, registers 30 and 31.
    zmmAfter (stepOn (setK ((start.setZmm 30 valOld).setZmm 31 valZ) 7 0xF0#64) [0x62#8, 0x02#8, 0xFD#8, 0xCF#8, 0x1F#8, 0xF7#8]) 30 =
      some (0x8000000000000000000000000000000100000000000000017FFFFFFFFFFFFFFF0000000000000000000000000000000000000000000000000000000000000000#512, 0x400006#64) ∧
    -- E-9.
    zmmAfter (stepOn (start.setZmm 2 valZ) [0x62#8, 0xF2#8, 0xFD#8, 0x48#8, 0x1F#8, 0xCA#8]) 1 =
      some (0x8000000000000000000000000000000100000000000000017FFFFFFFFFFFFFFF00000000800000007FFFFFFF000000007FFF7FFF7FFF800000FE01FD02FC03FC#512, 0x400006#64) := by decide +kernel

/-! ### Faults, one step each (95 section 2.6) -/

/-- Faults (95 section 2.6). -/
theorem test_faults :
    -- X15.
    faultOf (stepOn (setEnv start fun e => { e with x87Pending := true }) [0x0F#8, 0x38#8, 0x1C#8, 0xCA#8]) = some .mf ∧
    -- X4: a misaligned legacy xmm operand.
    faultOf (stepOn (setGpr start 6 0x1008#64) [0x66#8, 0x0F#8, 0x38#8, 0x1C#8, 0x06#8]) = some .gp0 ∧
    -- X23: through SS, not canonical.
    faultOf (stepOn (setGpr start 4 0x00007FFFFFFFFFF0#64) [0x66#8, 0x0F#8, 0x38#8, 0x1E#8, 0x4C#8, 0x24#8, 0x10#8]) = some .ss0 ∧
    -- X24: the last bytes of the operand are not canonical.
    faultOf (stepOn (setGpr start 0 0x00007FFFFFFFFFF8#64) [0xC4#8, 0xE2#8, 0x79#8, 0x1C#8, 0x00#8]) = some .gp0 ∧
    -- X19: AVX without AVX2.
    faultOf (stepOn (setFeat start fun t => { t with avx2 := false }) [0xC4#8, 0xE2#8, 0x7D#8, 0x1C#8, 0xCA#8]) = some .ud ∧
    -- X6: EVEX.b on VPABSB.
    faultOf (stepOn (start) [0x62#8, 0xF2#8, 0x7D#8, 0x18#8, 0x1C#8, 0x08#8]) = some .ud ∧
    -- X9: L'L = 11b.
    faultOf (stepOn (start) [0x62#8, 0xF2#8, 0x7D#8, 0x68#8, 0x1E#8, 0xCA#8]) = some .ud := by decide +kernel
/-- The state of X25: bytes 4 to 63 of the operand at 5000H cannot be read, one element or the whole operand. -/
def x25 (suppress : Bool) : State :=
  let s := setK (store (setGpr start 0 0x5000#64) 0x5000 [0xFF#8, 0xFF#8, 0xFF#8, 0xFF#8]) 1 1#64
  { s with cfg := { s.cfg with suppress := suppress, access :=
      [{ kind := .dataRead, cpls := [0, 1, 2, 3], first := 0x5004, last := 0x503C, width := 4, code := 4 },
       { kind := .dataRead, cpls := [0, 1, 2, 3], first := 0x5000, last := 0x5000, width := 64, code := 4 }] } }

/-- X25: without fault suppression the whole operand is read, with it only bytes 0 to 3. -/
theorem test_x25 : faultOf (stepOn (x25 false) [0x62#8, 0xF2#8, 0x7D#8, 0xC9#8, 0x1E#8, 0x00#8]) = some (.pf 4) ∧
    zmmAfter (stepOn (x25 true) [0x62#8, 0xF2#8, 0x7D#8, 0xC9#8, 0x1E#8, 0x00#8]) 0 = some (1#512, 0x400006#64) := by
  decide +kernel

/-! ### Witnesses: the hypotheses of each statement can be met

Each theorem shows concrete values that meet the hypotheses of the statement it is named after, every clause of it. -/

/-- A form that no check stops is ready. -/
theorem evexReady_of (c : Config) (bcst : Bool) (fs : List Feature) (f : EvexForm) (h : evexChecks c bcst fs f = none) :
    EvexReady c fs f := ((evexChecks_eq_none ..).1 h).1

/-- A broadcast form of VPABSD or VPABSQ. -/
def bcastForm (w : Bool) (aaa : BitVec 3) : EvexForm := { evexForm w aaa atRax with b := true }

/-- `start` with RAX at 2001H, an address with no alignment. -/
def odd : State := setGpr start 0 0x2001#64

/-- `odd` with alignment checking on under a policy. -/
def acOn (p : AcPolicy) : State :=
  { odd with cfg := { odd.cfg with acPolicy := p, env := { odd.cfg.env with cr0Am := true, eflagsAc := true, cpl := 3 } } }

/-- A state whose data reads page-fault at RAX (2001H) for every width up to 64 bytes. -/
def pfAt (a : Nat) (s : State) : State :=
  { s with cfg := { s.cfg with access :=
      [1, 2, 4, 8, 16, 32, 64].map fun n => { kind := .dataRead, cpls := [0, 1, 2, 3], first := a, last := a, width := n, code := 4 } } }

/-- RAX at the first address that is not canonical. -/
def nonCanonical : State := setGpr start 0 0x0000800000000000#64

/-- The mask register 1 set and fault suppression on. -/
def suppressed (s : State) (v : BitVec 64) : State :=
  setK { s with cfg := { s.cfg with suppress := true } } 1 v

/-- The bytes of an instruction at the instruction pointer. -/
def placed (s : State) (i : Instr) : State := s.placeBytes (encode i)

/-- The widest forms: registers 15 and 31, and 7 in 32-bit mode. -/
def vex15 : VexForm := { vexForm (.reg 7) with rBar := false, bBar := false, reg := 7#3 }
def evex31 : EvexForm :=
  { evexForm false 0 (.reg 7) with rBar := false, xBar := false, bBar := false, rHiBar := false, reg := 7#3 }

theorem witness_DecodeEncodeAllForms :
    (Instr.pabsbMm (legacyForm false atRax)).wellFormed .mode32 = true ∧
      (Instr.pabsdXmm (legacyForm true (.reg 7))).wellFormed .mode64 = true ∧
      (Instr.vpabswVex256 vex15).wellFormed .mode64 = true ∧
      (Instr.vpabsqEvex512 (bcastForm true 7)).wellFormed .mode32 = true := by decide

theorem witness_DecodedIsWellFormedAndLong :
    decode .mode64 [0x0F#8, 0x38#8, 0x1C#8, 0xCA#8, 0x99#8] = .instr (.pabsbMm (legacyForm false (.reg 2))) [0x99#8] :=
  by decide

theorem witness_NamedRegistersAreInTheBank :
    (decode .mode64 (encode (.vpabsbVex128 vex15)) = .instr (.vpabsbVex128 vex15) [] ∧
      vectorDst (.vpabsbVex128 vex15) = some 15#5 ∧ vectorSrc (.vpabsbVex128 vex15) = some 15#5) ∧
    (decode .mode64 (encode (.vpabsbEvex512 evex31)) = .instr (.vpabsbEvex512 evex31) [] ∧
      vectorDst (.vpabsbEvex512 evex31) = some 31#5 ∧ vectorSrc (.vpabsbEvex512 evex31) = some 31#5) ∧
    (decode .mode32 (encode (.pabsbXmm (legacyForm true (.reg 7)))) = .instr (.pabsbXmm (legacyForm true (.reg 7))) [] ∧
      vectorSrc (.pabsbXmm (legacyForm true (.reg 7))) = some 7#5) := by decide

/-- An EVEX form of fifteen bytes: 64 67 before six core and ModR/M bytes, SIB and `disp32` make thirteen. -/
def longForm : EvexForm :=
  { evexForm false 0 (.mem (.sib 0#2 0#3 0#3 (.d32 0#32))) with pfx := { seg := some .fs, addr32 := true } }

theorem witness_ReservedVectorLengthIsInvalid :
    longForm.wellFormed .mode64 = true ∧ (evexTriple 0x1E#8 longForm.w).isSome = true ∧ longForm.len ≤ 15 ∧
    (let s := start.placeBytes (encodeEvex 0x1E#8 3#2 longForm);
     s.rip ≠ s.cfg.endAddr ∧ s.cfg.debugArmed = false ∧
      (∀ i : Fin (encodeEvex 0x1E#8 3#2 longForm).length,
        readByte s.mem (fetchAddress s + i) = (encodeEvex 0x1E#8 3#2 longForm)[i]) ∧
      ∀ i < longForm.len, fetchStop s.cfg (fetchAddress s + i) = none) := by decide +kernel

theorem witness_NeighbouringOpcodesAreOutside :
    (0xFD#8 : Byte).getLsbD 7 = true ∧ (0x7D#8 : Byte).getLsbD 7 = false ∧
      (0xE1#8 : Byte).extractLsb' 0 5 ≠ 2#5 ∧ (0x78#8 : Byte).extractLsb' 0 2 ≠ 1#2 ∧
      (0xF1#8 : Byte).extractLsb' 0 2 ≠ 2#2 ∧ (0x7C#8 : Byte).extractLsb' 0 2 ≠ 1#2 := by decide

theorem witness_PrefixesNotAdmittedAreRefused :
    (Prefixes.wellFormed { repne := true } .mode64 = true ∧ Prefixes.wellFormed { rep := true } .mode32 = true) ∧
    (∀ x ∈ ([0x64#8] ++ [0xF0#8] : List Byte), (pfxByte x).isSome = true) ∧ (pfxByte 0x66#8).isSome = true ∧
    Seg.fs ≠ Seg.gs := by decide

theorem witness_EffectiveAddressFormula :
    start.cfg.mode = .mode64 ∧ start32.cfg.mode ≠ .mode64 ∧
      ¬ (start32.cfg.mode = .mode64 ∧ ∃ d, MemRef.dispOnly 5#32 = .dispOnly d) ∧
      ¬ (start.cfg.mode = .mode64 ∧ ∃ d, MemRef.sib 3#2 4#3 5#3 (.d8 0x80#8) = .dispOnly d) := by
  refine ⟨rfl, by decide, fun h => ?_, fun h => ?_⟩
  · exact absurd h.1 (by decide)
  · obtain ⟨_, _, hd⟩ := h; cases hd

theorem witness_IndexAndBaseRegisters :
    (false = false ∧ 4#3 = 4#3) ∧ ¬ (true = false ∧ 4#3 = 4#3) ∧ ¬ (false = false ∧ 3#3 = 4#3) ∧
      (0x8D#8 : Byte).extractLsb' 0 3 = 5#3 := by decide

theorem witness_SegmentOfAMemoryOperand :
    (Prefixes.seg { seg := some .fs } = some .fs) ∧ (Prefixes.seg {} = none) ∧
      segmentOf {} false (.base 5#3 (.d8 0#8)) = .ss ∧ segmentOf {} true (.base 5#3 (.d8 0#8)) ≠ .ss ∧
      Seg.ss ≠ .fs ∧ Seg.ss ≠ .gs := by decide

theorem witness_LinearAddressAndRange :
    start32.cfg.mode = .mode32 ∧ (Seg.ss ≠ .fs ∧ Seg.ss ≠ .gs) ∧ start.cfg.mode = .mode64 ∧
      rangeOk start.cfg 0x00007FFFFFFFFFF8 8 = true ∧ rangeOk start.cfg 0x00007FFFFFFFFFF9 8 = false ∧
      rangeOk start.cfg 0xFFFF800000000000 8 = true ∧ rangeOk start.cfg 0xFFFFFFFFFFFFFFF9 8 = false ∧
      rangeOk start32.cfg 0xFFFFFFF8 8 = true ∧ rangeOk start32.cfg 0xFFFFFFF9 8 = false := by decide +kernel

theorem witness_AlignmentCheckPolicies :
    NoAlignCheck start.cfg ∧ ¬ NoAlignCheck (acOn .never).cfg ∧ (acOn .never).cfg.acPolicy = .never ∧
      ¬ NoAlignCheck (acOn .mmxOnly).cfg ∧ (acOn .mmxOnly).cfg.acPolicy = .mmxOnly ∧
      ¬ NoAlignCheck (acOn .smallOnly).cfg ∧ (acOn .smallOnly).cfg.acPolicy = .smallOnly ∧
      ¬ NoAlignCheck (acOn .always).cfg ∧ (acOn .always).cfg.acPolicy = .always := by
  unfold NoAlignCheck; decide

theorem witness_LoadIsLittleEndian : (0 < 1) ∧ (63 < 64) ∧
    (loadLE 16 (writeBytes [] 0x10 [0x34#8, 0x12#8]) 0x10) = 0x1234#16 := by decide +kernel

theorem witness_PackedAbsLaneByLane : (16 ∈ [8, 16, 32, 64]) ∧ (7 < 8) ∧
    (valX.setWidth 128).extractLsb' (16 * 7) 16 = (valX.setWidth 128).extractLsb' (16 * 7) 16 := by
  exact ⟨by decide, by decide, rfl⟩

theorem witness_MmxFormsRegister :
    (legacyForm false (.reg 7)).rm = .reg 7 ∧ MmxReady start.cfg (legacyForm false (.reg 7)) := by
  unfold MmxReady; decide

theorem witness_MmxFormsMemory :
    (legacyForm false atRax).rm = .mem (.base 0#3 .d0) ∧ MmxReady odd.cfg (legacyForm false atRax) ∧
      OperandOk odd.cfg (legacyAddress odd (legacyForm false atRax) (.base 0#3 .d0)) 8 .mmx := by
  unfold MmxReady OperandOk Readable Accessible; decide +kernel

theorem witness_XmmFormsRegister :
    (legacyForm true (.reg 7)).rm = .reg 7 ∧ XmmReady start.cfg (legacyForm true (.reg 7)) := by
  unfold XmmReady; decide

theorem witness_XmmFormsMemory :
    (legacyForm true atRax).rm = .mem (.base 0#3 .d0) ∧ XmmReady start.cfg (legacyForm true atRax) ∧
      Readable start.cfg (legacyAddress start (legacyForm true atRax) (.base 0#3 .d0)) 16 ∧
      Aligned16 (legacyAddress start (legacyForm true atRax) (.base 0#3 .d0)) := by
  unfold XmmReady Readable Accessible Aligned16; decide +kernel

theorem witness_VexFormsRegister :
    (vexForm (.reg 7)).rm = .reg 7 ∧ VexReady start.cfg .avx (vexForm (.reg 7)) ∧
      VexReady start.cfg .avx2 (vexForm (.reg 7)) := by
  unfold VexReady NoStrayPrefix VexEnabled; decide

theorem witness_VexFormsMemory :
    (vexForm atRax).rm = .mem (.base 0#3 .d0) ∧ VexReady odd.cfg .avx (vexForm atRax) ∧
      VexReady odd.cfg .avx2 (vexForm atRax) ∧
      OperandOk odd.cfg (vexAddress odd (vexForm atRax) (.base 0#3 .d0)) 16 .vector ∧
      OperandOk odd.cfg (vexAddress odd (vexForm atRax) (.base 0#3 .d0)) 32 .vector := by
  unfold VexReady NoStrayPrefix VexEnabled OperandOk Readable Accessible; decide +kernel

theorem witness_EvexFormsRegister :
    (evexForm false 1 (.reg 7)).rm = .reg 7 ∧ (evexForm false 1 (.reg 7)).b = false ∧
      EvexReady start.cfg [.avx512vl, .avx512bw] (evexForm false 1 (.reg 7)) ∧
      EvexReady start.cfg [.avx512bw] (evexForm false 0 (.reg 7)) ∧
      EvexReady start.cfg [.avx512vl, .avx512f] { evexForm false 1 (.reg 7) with z := true } ∧
      EvexReady start.cfg [.avx512f] (evexForm true 1 (.reg 7)) ∧
      ¬ MaskBit start (evexForm false 1 (.reg 7)) 0 ∧ MaskBit start (evexForm false 0 (.reg 7)) 63 := by
  refine ⟨rfl, rfl, evexReady_of _ false _ _ (by decide), evexReady_of _ false _ _ (by decide),
    evexReady_of _ true _ _ (by decide), evexReady_of _ true _ _ (by decide), ?_, .inl rfl⟩
  unfold MaskBit; decide

theorem witness_EvexFormsMemory :
    (evexForm false 1 atRax).rm = .mem (.base 0#3 .d0) ∧ (evexForm false 1 atRax).b = false ∧
      EvexReady odd.cfg [.avx512vl, .avx512bw] (evexForm false 1 atRax) ∧
      (odd.cfg.suppress = false ∨ (evexForm false 1 atRax).aaa = 0#3) ∧
      ((suppressed odd 0).cfg.suppress = false ∨ (evexForm false 0 atRax).aaa = 0#3) ∧
      OperandOk odd.cfg (evexAddress 8 512 odd (evexForm false 1 atRax) (.base 0#3 .d0)) 64 .vector ∧
      OperandOk odd.cfg (evexAddress 8 128 odd (evexForm false 1 atRax) (.base 0#3 .d0)) 16 .vector := by
  refine ⟨rfl, rfl, evexReady_of _ false _ _ (by decide), .inl rfl, .inr rfl, ?_⟩
  unfold OperandOk Readable Accessible; decide +kernel

theorem witness_EvexFormsSuppressedMemory :
    let s := suppressed (x25 true) 1#64
    let f := evexForm false 1 atRax
    f.rm = .mem (.base 0#3 .d0) ∧ f.b = false ∧ EvexReady s.cfg [.avx512f] f ∧ s.cfg.suppress = true ∧ f.aaa ≠ 0#3 ∧
      (∀ j < 512 / 32, MaskBit s f j →
        Readable s.cfg (evexAddress 32 512 s f (.base 0#3 .d0) + j * (32 / 8)) (32 / 8)) ∧
      alignCheck s.cfg .vector (evexAddress 32 512 s f (.base 0#3 .d0)) (512 / 8) = false := by
  refine ⟨rfl, rfl, evexReady_of _ true _ _ (by decide), rfl, by decide, ?_⟩
  unfold MaskBit Readable Accessible; decide +kernel

theorem witness_EvexFormsBroadcast :
    (bcastForm false 1).rm = .mem (.base 0#3 .d0) ∧ (bcastForm false 1).b = true ∧
      EvexReady odd.cfg [.avx512vl, .avx512f] (bcastForm false 1) ∧
      OperandOk odd.cfg (evexAddress 32 128 odd (bcastForm false 1) (.base 0#3 .d0)) (32 / 8) .broadcast ∧
      EvexReady (suppressed nonCanonical 0).cfg [.avx512f] (bcastForm true 1) ∧
      ((suppressed nonCanonical 0).cfg.suppress = true ∧
        ∀ j < 512 / 64, ¬ MaskBit (suppressed nonCanonical 0) (bcastForm true 1) j) := by
  have h : ∀ j < 512 / 64, ¬ MaskBit (suppressed nonCanonical 0) (bcastForm true 1) j := by unfold MaskBit; decide
  refine ⟨rfl, rfl, evexReady_of _ true _ _ (by decide), ?_, evexReady_of _ true _ _ (by decide), rfl, h⟩
  unfold OperandOk Readable Accessible; decide +kernel

/-! The witnesses of the fault statements, one conjunct for each clause. -/

theorem witness_MmxFormsFault :
    let f := legacyForm false atRax
    ({ f with pfx := { lock := true } } : LegacyForm).pfx.lock = true ∧
      (setFeat start fun t => { t with ssse3 := false }).cfg.feat.ssse3 = false ∧
      (setEnv start fun e => { e with cr0Em := true }).cfg.env.cr0Em = true ∧
      (f.pfx.lock = false ∧ start.cfg.feat.ssse3 = true ∧ start.cfg.env.cr0Em = false ∧
        (setEnv start fun e => { e with cr0Ts := true }).cfg.env.cr0Ts = true) ∧
      (setEnv start fun e => { e with x87Pending := true }).cfg.env.x87Pending = true ∧
      (MmxReady nonCanonical.cfg f ∧ rangeOk nonCanonical.cfg (legacyAddress nonCanonical f (.base 0#3 .d0)) 8 = false) ∧
      (MmxReady (pfAt 0x2001 odd).cfg f ∧
        rangeOk (pfAt 0x2001 odd).cfg (legacyAddress (pfAt 0x2001 odd) f (.base 0#3 .d0)) 8 = true ∧
        accessCheck (pfAt 0x2001 odd).cfg .dataRead (legacyAddress (pfAt 0x2001 odd) f (.base 0#3 .d0)) 8 = some 4) ∧
      (MmxReady (acOn .mmxOnly).cfg f ∧
        Accessible (acOn .mmxOnly).cfg (legacyAddress (acOn .mmxOnly) f (.base 0#3 .d0)) 8 ∧
        alignCheck (acOn .mmxOnly).cfg .mmx (legacyAddress (acOn .mmxOnly) f (.base 0#3 .d0)) 8 = true) := by
  unfold MmxReady Accessible; decide +kernel

theorem witness_XmmFormsFault :
    let f := legacyForm true atRax
    (setEnv start fun e => { e with cr4Osfxsr := false }).cfg.env.cr4Osfxsr = false ∧
      (f.pfx.lock = false ∧ start.cfg.feat.ssse3 = true ∧ start.cfg.env.cr0Em = false ∧
        start.cfg.env.cr4Osfxsr = true ∧ (setEnv start fun e => { e with cr0Ts := true }).cfg.env.cr0Ts = true) ∧
      (XmmReady nonCanonical.cfg f ∧
        rangeOk nonCanonical.cfg (legacyAddress nonCanonical f (.base 0#3 .d0)) 16 = false) ∧
      (XmmReady odd.cfg f ∧ rangeOk odd.cfg (legacyAddress odd f (.base 0#3 .d0)) 16 = true ∧
        ¬ Aligned16 (legacyAddress odd f (.base 0#3 .d0))) ∧
      (XmmReady (pfAt 0 start).cfg f ∧ rangeOk (pfAt 0 start).cfg (legacyAddress (pfAt 0 start) f (.base 0#3 .d0)) 16 = true ∧
        Aligned16 (legacyAddress (pfAt 0 start) f (.base 0#3 .d0)) ∧
        accessCheck (pfAt 0 start).cfg .dataRead (legacyAddress (pfAt 0 start) f (.base 0#3 .d0)) 16 = some 4) := by
  unfold XmmReady Aligned16; decide +kernel

theorem witness_VexFormsFault :
    let f := vexForm atRax
    ¬ NoStrayPrefix ({ f with pfx := { opsize := true } } : VexForm).pfx ∧ ({ f with vvvv := 14#4 } : VexForm).vvvv ≠ 15#4 ∧
      (setFeat start fun t => { t with avx2 := false }).cfg.feat.has .avx2 = false ∧
      ¬ VexEnabled (setEnv start fun e => { e with xcr0Avx := false }).cfg.env ∧
      (NoStrayPrefix f.pfx ∧ f.vvvv = 15#4 ∧ start.cfg.feat.has .avx = true ∧ VexEnabled start.cfg.env ∧
        (setEnv start fun e => { e with cr0Ts := true }).cfg.env.cr0Ts = true) ∧
      (VexReady nonCanonical.cfg .avx f ∧
        rangeOk nonCanonical.cfg (vexAddress nonCanonical f (.base 0#3 .d0)) 16 = false) ∧
      (VexReady (pfAt 0x2001 odd).cfg .avx f ∧
        rangeOk (pfAt 0x2001 odd).cfg (vexAddress (pfAt 0x2001 odd) f (.base 0#3 .d0)) 16 = true ∧
        accessCheck (pfAt 0x2001 odd).cfg .dataRead (vexAddress (pfAt 0x2001 odd) f (.base 0#3 .d0)) 16 = some 4) ∧
      (VexReady (acOn .always).cfg .avx f ∧
        Accessible (acOn .always).cfg (vexAddress (acOn .always) f (.base 0#3 .d0)) 16 ∧
        alignCheck (acOn .always).cfg .vector (vexAddress (acOn .always) f (.base 0#3 .d0)) 16 = true) := by
  unfold VexReady NoStrayPrefix VexEnabled Accessible; decide +kernel

theorem witness_EvexFormsFault :
    let f := evexForm false 0 (.reg 2)
    ¬ EvexFieldsOk { f with pfx := { rep := true } } ∧ ¬ EvexFieldsOk { f with p0Fixed := 1#2 } ∧
      ¬ EvexFieldsOk { f with p1Fixed := false } ∧ ¬ EvexFieldsOk { f with vvvv := 14#4 } ∧
      ¬ EvexFieldsOk { f with vHiBar := false } ∧ ¬ EvexFieldsOk { f with z := true } ∧
      BroadcastBad true { f with b := true } ∧ BroadcastBad false (bcastForm false 0) ∧
      ¬ BroadcastBad true (bcastForm false 0) ∧ EvexFieldsOk f ∧ HasFeatures start.cfg [.avx512vl, .avx512bw] ∧
      ¬ HasFeatures (setFeat start fun t => { t with avx512vl := false }).cfg [.avx512vl, .avx512bw] ∧
      ¬ EvexEnabled (setEnv start fun e => { e with xcr0Hi16Zmm := false }).cfg.env ∧ EvexEnabled start.cfg.env ∧
      (setEnv start fun e => { e with cr0Ts := true }).cfg.env.cr0Ts = true := by
  simp [EvexFieldsOk, NoStrayPrefix, BroadcastBad, HasFeatures, EvexEnabled, VexEnabled, evexForm, bcastForm, atRax,
    setFeat, setEnv, start, State.reset, resetConfig, Features.has]

theorem witness_EvexFormsMemoryFault :
    let f := evexForm false 1 atRax
    (EvexReady nonCanonical.cfg [.avx512bw] f ∧ nonCanonical.cfg.suppress = false ∧
        rangeOk nonCanonical.cfg (evexAddress 8 512 nonCanonical f (.base 0#3 .d0)) 64 = false) ∧
      (EvexReady (x25 false).cfg [.avx512f] f ∧
        rangeOk (x25 false).cfg (evexAddress 32 512 (x25 false) f (.base 0#3 .d0)) 64 = true ∧
        accessCheck (x25 false).cfg .dataRead (evexAddress 32 512 (x25 false) f (.base 0#3 .d0)) 64 = some 4) ∧
      (Accessible (acOn .always).cfg (evexAddress 8 128 (acOn .always) f (.base 0#3 .d0)) 16 ∧
        alignCheck (acOn .always).cfg .vector (evexAddress 8 128 (acOn .always) f (.base 0#3 .d0)) 16 = true) ∧
      ((evexForm false 0 atRax).aaa = 0#3 ∧ (suppressed nonCanonical 0).cfg.suppress = true) ∧
      (EvexReady (suppressed nonCanonical 8).cfg [.avx512f] (bcastForm false 1) ∧
        (∃ j < 512 / 32, MaskBit (suppressed nonCanonical 8) (bcastForm false 1) j) ∧
        rangeOk nonCanonical.cfg (evexAddress 32 512 (suppressed nonCanonical 8) (bcastForm false 1) (.base 0#3 .d0))
          (32 / 8) = false) ∧
      (Accessible (acOn .smallOnly).cfg (evexAddress 32 512 (acOn .smallOnly) (bcastForm false 0) (.base 0#3 .d0)) 4 ∧
        alignCheck (acOn .smallOnly).cfg .broadcast
          (evexAddress 32 512 (acOn .smallOnly) (bcastForm false 0) (.base 0#3 .d0)) 4 = true) := by
  refine ⟨⟨evexReady_of _ false _ _ (by decide), ?_⟩, ⟨evexReady_of _ true _ _ (by decide), ?_⟩, ?_, ?_,
    ⟨evexReady_of _ true _ _ (by decide), ⟨3, by decide, .inr rfl⟩, ?_⟩, ?_⟩
  all_goals try unfold Accessible
  all_goals decide +kernel

/-- The elements of a masked operand at 7FFFFFFFFFF0H: from element 4 on they are not canonical. -/
def edge (v : BitVec 64) : State := suppressed (setGpr start 0 0x00007FFFFFFFFFF0#64) v

theorem witness_EvexFormsSuppressedFault :
    let f := evexForm false 1 atRax
    (EvexReady (edge 0x10).cfg [.avx512f] f ∧ (edge 0x10).cfg.suppress = true ∧ f.aaa ≠ 0#3 ∧
        (∃ j < 512 / 32, MaskBit (edge 0x10) f j ∧
          rangeOk (edge 0x10).cfg (evexAddress 32 512 (edge 0x10) f (.base 0#3 .d0) + j * (32 / 8)) (32 / 8) = false)) ∧
      (let s := suppressed (x25 true) 6#64;
        MaskBit s f 1 ∧ (∀ i < 512 / 32, MaskBit s f i →
          rangeOk s.cfg (evexAddress 32 512 s f (.base 0#3 .d0) + i * (32 / 8)) (32 / 8) = true) ∧
        (∀ i < 1, MaskBit s f i →
          accessCheck s.cfg .dataRead (evexAddress 32 512 s f (.base 0#3 .d0) + i * (32 / 8)) (32 / 8) = none) ∧
        accessCheck s.cfg .dataRead (evexAddress 32 512 s f (.base 0#3 .d0) + 1 * (32 / 8)) (32 / 8) = some 4) ∧
      (let s := suppressed (acOn .always) 0x8000#64;
        (∃ j < 512 / 32, MaskBit s f j) ∧
        (∀ j < 512 / 32, MaskBit s f j →
          Accessible s.cfg (evexAddress 32 512 s f (.base 0#3 .d0) + j * (32 / 8)) (32 / 8)) ∧
        alignCheck s.cfg .vector (evexAddress 32 512 s f (.base 0#3 .d0)) (512 / 8) = true) := by
  refine ⟨⟨evexReady_of _ true _ _ (by decide), ?_⟩, ?_⟩
  all_goals unfold MaskBit
  all_goals try unfold Accessible
  all_goals decide +kernel

/-- The page at 2000H is a device, not ordinary memory (R60). -/
def deviceAt (s : State) : State := { s with cfg := { s.cfg with devices := [{ first := 0x2000, last := 0x2FFF }] } }

/-- A read of a device is refused, also where only its last byte is one; a read below or above it runs (log 21). -/
theorem test_device_read :
    let i := Instr.pabsbMm (legacyForm false atRax)
    exec i (deviceAt (setGpr start 0 0x1FF9#64)) = .refused .deviceRead ∧
      exec i (deviceAt (setGpr start 0 0x2FFF#64)) = .refused .deviceRead ∧
      (mmAfter (exec i (deviceAt (setGpr start 0 0x1FF8#64))) 1).isSome = true ∧
      (mmAfter (exec i (deviceAt (setGpr start 0 0x3000#64))) 1).isSome = true := by
  refine ⟨rfl, rfl, by decide +kernel, by decide +kernel⟩

theorem witness_DeviceReadsAreRefused :
    let s := deviceAt odd
    let x := deviceAt (setGpr start 0 0x2000#64)
    let m := MemRef.base 0#3 .d0
    let f := evexForm false 1 atRax
    let t := suppressed (deviceAt (setGpr start 0 0x1FFC#64)) 2
    (MmxReady s.cfg (legacyForm false atRax) ∧ DeviceOperand s.cfg (legacyAddress s (legacyForm false atRax) m) 8 .mmx) ∧
      (XmmReady x.cfg (legacyForm true atRax) ∧ Aligned16 (legacyAddress x (legacyForm true atRax) m) ∧
        DeviceOperand x.cfg (legacyAddress x (legacyForm true atRax) m) 16 .vector) ∧
      (VexReady s.cfg .avx2 (vexForm atRax) ∧ DeviceOperand s.cfg (vexAddress s (vexForm atRax) m) 32 .vector) ∧
      (EvexReady s.cfg [.avx512f] f ∧ s.cfg.suppress = false ∧
        DeviceOperand s.cfg (evexAddress 32 512 s f m) 64 .vector) ∧
      (EvexReady s.cfg [.avx512f] (bcastForm false 1) ∧
        DeviceOperand s.cfg (evexAddress 32 512 s (bcastForm false 1) m) 4 .broadcast) ∧
      (EvexReady t.cfg [.avx512f] f ∧ t.cfg.suppress = true ∧ f.aaa ≠ 0#3 ∧
        (∀ j < 512 / 32, MaskBit t f j → Accessible t.cfg (evexAddress 32 512 t f m + j * (32 / 8)) (32 / 8)) ∧
        alignCheck t.cfg .vector (evexAddress 32 512 t f m) (512 / 8) = false ∧
        (∃ j < 512 / 32, MaskBit t f j ∧ ordinary t.cfg (evexAddress 32 512 t f m + j * (32 / 8)) (32 / 8) = false)) := by
  refine ⟨?_, ?_, ?_, ⟨evexReady_of _ false _ _ (by decide), ?_⟩, ⟨evexReady_of _ true _ _ (by decide), ?_⟩,
    ⟨evexReady_of _ false _ _ (by decide), rfl, by decide, ?_, by decide +kernel, ⟨1, by decide, .inr rfl, rfl⟩⟩⟩
  · unfold MmxReady DeviceOperand Accessible; decide +kernel
  · unfold XmmReady Aligned16 DeviceOperand Accessible; decide +kernel
  · unfold VexReady NoStrayPrefix VexEnabled DeviceOperand Accessible; decide +kernel
  · unfold DeviceOperand Accessible; decide +kernel
  · unfold DeviceOperand Accessible; decide +kernel
  · unfold MaskBit Accessible; decide +kernel

theorem witness_ReservedVvvvIsInvalidOpcode :
    ({ vexForm (.reg 2) with vvvv := 14#4 } : VexForm).vvvv ≠ 15#4 ∧
      ({ evexForm false 0 (.reg 2) with vvvv := 0#4 } : EvexForm).vvvv ≠ 15#4 := by decide

theorem witness_LockAndStrayPrefixesAreInvalidOpcode :
    (prefixesOf (.pabsbMm { legacyForm false atRax with pfx := { lock := true } })).lock = true ∧
      (encClass (.vpabsbVex128 { vexForm (.reg 2) with pfx := { repne := true } }) ≠ .legacy ∧
        (prefixesOf (.vpabsbVex128 { vexForm (.reg 2) with pfx := { repne := true } })).repne = true) := by decide

theorem witness_MissingFeatureIsInvalidOpcode :
    ∃ x ∈ rowFeatures (.vpabsbEvex128 (evexForm false 0 (.reg 2))),
      (setFeat start fun t => { t with avx512vl := false }).cfg.feat.has x = false :=
  ⟨.avx512vl, by decide, rfl⟩

theorem witness_TaskSwitchedIsDeviceNotAvailable :
    (setEnv start fun e => { e with cr0Ts := true }).cfg.env.cr0Ts = true ∧
      faultOf (exec (.vpabsbVex128 { vexForm (.reg 2) with vvvv := 0#4 }) start) = some .ud ∧
      faultOf (exec (.vpabsbVex128 (vexForm (.reg 2))) start) ≠ some .ud := by decide +kernel

theorem witness_StepRunsTheDecodedInstruction :
    let s := placed start (.pabsbMm (legacyForm false (.reg 2)))
    s.rip ≠ s.cfg.endAddr ∧ s.cfg.debugArmed = false ∧
      decode s.cfg.mode (fetch s).1 = .instr (.pabsbMm (legacyForm false (.reg 2))) (List.replicate 11 0#8) := by
  decide +kernel

/-- The last instruction below the first address that is not canonical: the bytes after it cannot be fetched. -/
def lastCode : State := placed { start with rip := 0x00007FFFFFFFFFFC#64 } (.pabsbMm (legacyForm false (.reg 2)))

theorem witness_ProgramTextRuns :
    lastCode.rip ≠ lastCode.cfg.endAddr ∧ lastCode.cfg.debugArmed = false ∧
      (Instr.pabsbMm (legacyForm false (.reg 2))).wellFormed .mode64 = true ∧
      (Instr.pabsbMm (legacyForm false (.reg 2))).len ≤ 15 ∧
      (∀ i : Fin 4, readByte lastCode.mem (fetchAddress lastCode + i) = [0x0F#8, 0x38#8, 0x1C#8, 0xCA#8][i]) ∧
      (∀ i < 4, fetchStop lastCode.cfg (fetchAddress lastCode + i) = none) ∧
      fetchStop lastCode.cfg (fetchAddress lastCode + 4) = some (.fault .gp0) := by decide +kernel

/-- Two instructions, the second on the destination of the first, launched at 400000H. -/
def straightLine : List Instr := [.pabsbMm (legacyForm false (.reg 2)), .vpabsqEvex512 (evexForm true 0 (.reg 2))]

/-- `straightLine` placed, the run ending after it. -/
def launched : State :=
  let s := start.placeBytes (straightLine.flatMap encode)
  { s with cfg := { s.cfg with endAddr := 0x40000A } }

/-- `straightLine` at the end of the 32-bit address space. -/
def launched32 : State :=
  let s := { start32 with rip := 0xFFFFFFF6 }.placeBytes (straightLine.flatMap encode)
  { s with cfg := { s.cfg with endAddr := 0x100000000 } }

theorem programAt_launched : ProgramAt launched 0x400000 (straightLine.flatMap encode) := by
  unfold ProgramAt TextAt; decide +kernel

theorem programAt_launched32 : ProgramAt launched32 0xFFFFFFF6 (straightLine.flatMap encode) := by
  unfold ProgramAt TextAt; decide +kernel

theorem witness_ProgramTextStaysFixed :
    ProgramAt launched 0x400000 (straightLine.flatMap encode) ∧
      ProgramAt launched32 0xFFFFFFF6 (straightLine.flatMap encode) := ⟨programAt_launched, programAt_launched32⟩

theorem witness_LaunchedTextRunsInOrder :
    ProgramAt launched 0x400000 (straightLine.flatMap encode) ∧ ProgramAt launched32 0xFFFFFFF6 (straightLine.flatMap encode) ∧
      ([launched, launched32].all fun s =>
        (straightLine.all fun i => i.wellFormed s.cfg.mode && decide (i.len ≤ 15)) &&
        ((List.range (straightLine.flatMap encode).length).all fun i =>
          (fetchStop s.cfg (fetchAddress s + i)).isNone) &&
        !s.cfg.debugArmed && s.cfg.endAddr == s.rip + BitVec.ofNat 64 (straightLine.flatMap encode).length &&
        (match execAll straightLine s with | .next _ => true | _ => false)) = true :=
  ⟨programAt_launched, programAt_launched32, by decide +kernel⟩

theorem witness_EndAddressIsFinal : Final { start with rip := 0 } := rfl

theorem witness_ArmedDebugIsRefused :
    let s := { start with cfg := { start.cfg with debugArmed := true } }
    ¬ s.rip = s.cfg.endAddr ∧ ¬ s.cfg.debugArmed = false := by decide

/-- Fifteen prefix bytes and no opcode cannot stand (R90 admits each once), so the instruction of more than fifteen
bytes has all six legacy prefixes and a long EVEX form; the byte at 400000H + 15 is its sixteenth. -/
def sixteen : State :=
  start.placeBytes [0x64#8, 0x67#8, 0xF0#8, 0x66#8, 0xF2#8, 0xF3#8, 0x62#8, 0xF2#8, 0x7D#8, 0x08#8, 0x1E#8, 0x84#8,
    0x00#8, 0x00#8, 0x00#8]

theorem witness_FetchFaults :
    (sixteen.rip ≠ sixteen.cfg.endAddr ∧ sixteen.cfg.debugArmed = false ∧
      (∀ i < 15, fetchStop sixteen.cfg (fetchAddress sixteen + i) = none) ∧
      decode .mode64 ((List.range 15).map fun i => readByte sixteen.mem (fetchAddress sixteen + i)) = .truncated) ∧
    (let s := { start with rip := 0x00007FFFFFFFFFFF#64, mem := [(0x00007FFFFFFFFFFF, 0x0F#8)] };
      s.rip ≠ s.cfg.endAddr ∧ s.cfg.debugArmed = false ∧ fetchStop s.cfg (fetchAddress s) = none ∧ decode .mode64 [0x0F#8] = .truncated ∧
      fetchAddress s + 1 < 2 ^ 64 ∧ canonical s.cfg.law (fetchAddress s + 1) = false) ∧
    (let s := { start32 with rip := 0xFFFFFFFF#64 };
      decode .mode32 [0x0F#8] = .truncated ∧ fetchStop s.cfg (fetchAddress s) = none ∧ fetchAddress s + 1 = 2 ^ 32) ∧
    (let s := { start with cfg := { start.cfg with access :=
        [{ kind := .fetch, cpls := [0, 1, 2, 3], first := 0x400000, last := 0x400FFF, width := 1, code := 0x14 }] } };
      decode .mode64 [] = .truncated ∧ canonical s.cfg.law (fetchAddress s) = true ∧
      accessCheck s.cfg .fetch (fetchAddress s) 1 = some 0x14) := by decide +kernel

/-- A step that answers a next state, with a memory source. -/
def running : State := placed odd (.vpabsbEvex512 (evexForm false 0 atRax))

/-- The state after it. -/
def afterRunning : State :=
  { running with rip := 0x400006#64, zmm := (running.setZmm 1 0).zmm }

theorem witness_StepLeavesSystemStateAlone : step running = .next afterRunning := by
  have h : (match step running with | .next t => t == afterRunning | _ => false) = true := by decide +kernel
  revert h
  cases step running with
  | next t => intro h; rw [of_decide_eq_true h]
  | fault e => intro h; cases h
  | refused r => intro h; cases h

theorem witness_StepKeepsTheInvariant : Inv running ∧ step running = .next afterRunning := by
  refine ⟨⟨by decide +kernel, by unfold CoherentFeatures; decide, fun i j _ => ?_, fun h => absurd h (by decide)⟩,
    witness_StepLeavesSystemStateAlone⟩
  show (State.reset.zmm[i.toNat]'(i.isLt)).getLsbD j = false
  simp [State.reset]

theorem witness_Mode32StepsLeaveHighRegistersAlone :
    start32.cfg.mode = .mode32 ∧
      (mmAfter (step (placed start32 (.pabsbMm (legacyForm false (.reg 2))))) 1).isSome = true ∧
      (let s := setFeat start fun t => { t with avx512f := false, avx512bw := false };
        s.cfg.feat.avx512f = false ∧ s.cfg.feat.avx512bw = false ∧
        (zmmAfter (step (placed s (.vpabsbVex256 vex15))) 15).isSome = true) ∧
      8 ≤ (8#5).toNat ∧ 16 ≤ (16#5).toNat := by decide +kernel

/-- A page that only the levels below 3 may read: data reads of 8 bytes at RAX (2001H) fault at level 3. -/
def supervisorPage : State :=
  { odd with cfg := { odd.cfg with access :=
      [{ kind := .dataRead, cpls := [3], first := 0x2000, last := 0x2FFF, width := 8, code := 5 }] } }

/-- `Access` reads the privilege level (`10_state.md` R29): PABSB mm1, [rax] runs at level 2 and faults at level 3. -/
theorem test_access_cpl :
    (mmAfter (exec (.pabsbMm (legacyForm false atRax)) (withCpl supervisorPage 2)) 1).isSome = true ∧
      faultOf (exec (.pabsbMm (legacyForm false atRax)) (withCpl supervisorPage 3)) = some (.pf 5) := by decide +kernel

theorem witness_PrivilegeDoesNotMatter :
    (∃ rm, sourceOf (.pabsbMm (legacyForm false (.reg 2))) = .reg rm) ∧
      ((∀ lin n, accessCheck (withCpl start 3).cfg .dataRead lin n = accessCheck start.cfg .dataRead lin n) ∧
        alignmentCheckingOn (withCpl start 3).cfg.env = alignmentCheckingOn start.cfg.env) ∧
      ((∀ lin n, accessCheck (withCpl supervisorPage 2).cfg .dataRead lin n =
          accessCheck supervisorPage.cfg .dataRead lin n) ∧
        alignmentCheckingOn (withCpl supervisorPage 2).cfg.env = alignmentCheckingOn supervisorPage.cfg.env) :=
  ⟨⟨_, rfl⟩, ⟨fun _ _ => rfl, rfl⟩, ⟨fun _ _ => rfl, rfl⟩⟩

theorem witness_AccessUsesThePrivilegeLevel :
    (∃ e, supervisorPage.cfg.access = [e]) ∧
      ({ supervisorPage.cfg.env with cr0Ts := true } : Env).cpl = supervisorPage.cfg.env.cpl := ⟨⟨_, rfl⟩, rfl⟩

theorem witness_MaskBitsAboveKLAreIgnored :
    ∀ j < 2, ({ start with k := (setK start 1 0xFFFFFFFFFFFFFFFC#64).k }.kReg 1).getLsbD j = (start.kReg 1).getLsbD j := by
  decide +kernel

theorem witness_UnmaskedEvexEqualsVex :
    evexDst (evexForm false 0 (.reg 2)) = vexDst (vexForm (.reg 2)) ∧
      evexSrc (evexForm false 0 (.reg 2)) 2 = vexSrc (vexForm (.reg 2)) 2 ∧
      (zmmAfter (exec (.vpabsbVex128 (vexForm (.reg 2))) start) 1).isSome = true ∧
      (zmmAfter (exec (.vpabsbEvex128 (evexForm false 0 (.reg 2))) start) 1).isSome = true := by decide +kernel

theorem witness_VexAndLegacyAgreeOnTheLowHalf :
    vexDst (vexForm (.reg 2)) = legacyDst (legacyForm true (.reg 2)) ∧
      vexSrc (vexForm (.reg 2)) 2 = legacySrc (legacyForm true (.reg 2)) 2 ∧
      (zmmAfter (exec (.pabsbXmm (legacyForm true (.reg 2))) start) 1).isSome = true ∧
      (zmmAfter (exec (.vpabsbVex128 (vexForm (.reg 2))) start) 1).isSome = true := by decide +kernel

theorem witness_AbsoluteValueTwiceIsOnce :
    (legacyForm false (.reg 1)).rm = .reg (legacyForm false (.reg 2)).reg ∧
      legacySrc (legacyForm true (.reg 1)) 1 = legacyDst (legacyForm true (.reg 2)) ∧
      vexSrc (vexForm (.reg 1)) 1 = vexDst (vexForm (.reg 2)) ∧
      evexSrc (evexForm false 0 (.reg 1)) 1 = evexDst (evexForm false 0 (.reg 2)) ∧
      (mmAfter (exec (.pabsbMm (legacyForm false (.reg 1))) start) 1).isSome = true ∧
      (zmmAfter (exec (.vpabsqEvex512 (evexForm true 0 (.reg 1))) start) 1).isSome = true := by decide +kernel

theorem witness_EmptyMaskEffect :
    (evexForm false 1 (.reg 2)).aaa ≠ 0#3 ∧ (∀ j < 64, (start.kReg 1).getLsbD j = false) ∧
      (zmmAfter (exec (.vpabsbEvex512 (evexForm false 1 (.reg 2))) start) 1).isSome = true ∧
      (zmmAfter (exec (.vpabsbEvex512 { evexForm false 1 (.reg 2) with z := true }) start) 1).isSome = true := by
  decide +kernel

theorem witness_PlacedWordRuns :
    Memory.wf start.mem = true ∧ start.cfg.mode = .mode64 ∧ start.rip ≠ start.cfg.endAddr ∧
      start.cfg.debugArmed = false ∧
      (∀ i < 15, fetchStop start.cfg (fetchAddress start + i) = none) ∧
      decodeTableWord 40 0x1F48FDF262 = some (.vpabsqEvex512 { evexForm true 0 atRax with reg := 0 }) := by
  decide +kernel

end Sys2Proof.Tests
end

section
/-!
SUPPORT. Every step keeps the invariant of `StepKeepsTheInvariant`. No form writes memory or the configuration, so a
step can break the invariant only through the one vector register it writes; `FitsFeatures` says what that register may
hold, each shared meaning writes such a value, and the features that the form's own checks ask for are the reason.
-/
namespace Sys2Proof.Machine
open Sys2Proof.Safety

/-! ### What a vector register may hold under a feature set -/

/-- The value that the invariant allows in vector register `i`: no bit above the width R7 gives to the features, and
only 0 in registers 16 to 31 without AVX512F (R21). -/
def FitsFeatures (t : Features) (i : BitVec 5) (v : BitVec 512) : Prop :=
  (∀ j, featureMaxvl t ≤ j → v.getLsbD j = false) ∧ (t.avx512f = false → 16 ≤ i.toNat → v = 0)

/-- The invariant, register by register. -/
theorem inv_iff_fitsFeatures (s : State) :
    Inv s ↔ Memory.wf s.mem = true ∧ CoherentFeatures s.cfg.feat ∧
      ∀ i, FitsFeatures s.cfg.feat i (s.zmmReg i) := by
  constructor
  · rintro ⟨hmem, hfeat, hbits, hhigh⟩
    exact ⟨hmem, hfeat, fun i => ⟨hbits i, fun hf => hhigh hf i⟩⟩
  · rintro ⟨hmem, hfeat, hregs⟩
    exact ⟨hmem, hfeat, fun i => (hregs i).1, fun hf i => (hregs i).2 hf⟩

theorem coherentFeatures_of_inv {s : State} (hs : Inv s) : CoherentFeatures s.cfg.feat :=
  ((inv_iff_fitsFeatures s).1 hs).2.1

theorem fitsFeatures_of_inv {s : State} (hs : Inv s) (i : BitVec 5) : FitsFeatures s.cfg.feat i (s.zmmReg i) :=
  ((inv_iff_fitsFeatures s).1 hs).2.2 i

/-! ### The updates of the state -/

/-- Writing a value that fits keeps the invariant. -/
theorem inv_setZmm {s : State} {d : BitVec 5} {v : BitVec 512} (hs : Inv s) (hv : FitsFeatures s.cfg.feat d v) :
    Inv (s.setZmm d v) := by
  obtain ⟨hmem, hfeat, hregs⟩ := (inv_iff_fitsFeatures s).1 hs
  refine (inv_iff_fitsFeatures _).2 ⟨hmem, hfeat, fun i => ?_⟩
  rw [State.setZmm_cfg, State.zmmReg_setZmm]
  by_cases hi : i = d
  · rwa [if_pos hi, hi]
  · rw [if_neg hi]
    exact hregs i

theorem inv_setMm {s : State} (hs : Inv s) (d : BitVec 3) (v : BitVec 64) : Inv (s.setMm d v) := hs

theorem inv_advance {s : State} (hs : Inv s) (n : Nat) : Inv (s.advance n) := hs

/-! ### The width that the features of a row give -/

theorem le_featureMaxvl_128 (t : Features) : 128 ≤ featureMaxvl t := by
  unfold featureMaxvl
  split_ifs <;> omega

/-- AVX2 comes with AVX, so a vector register is at least a ymm register. -/
theorem le_featureMaxvl_of_avx2 {t : Features} (ht : CoherentFeatures t) (h : t.has .avx2 = true) :
    256 ≤ featureMaxvl t := by
  obtain ⟨-, -, -, havx⟩ := ht
  have : t.avx = true := havx h
  unfold featureMaxvl
  split_ifs <;> omega

/-- Every EVEX row asks for AVX512F or for AVX512BW, which comes with AVX512F. -/
theorem avx512f_of_hasFeatures {c : Config} {fs : List Feature} (hc : CoherentFeatures c.feat)
    (h : HasFeatures c fs) (hfs : .avx512f ∈ fs ∨ .avx512bw ∈ fs) : c.feat.avx512f = true := by
  obtain ⟨hbw, -⟩ := hc
  rcases hfs with hf | hb
  · exact h _ hf
  · exact hbw (h _ hb)

/-! ### The values that the forms write fit -/

/-- A register number with one extension bit (R108) is below 16. -/
theorem toNat_extensionIndex_lt (r : BitVec 1) (reg : BitVec 3) : (0#1 ++ r ++ reg).toNat < 16 := by
  revert r reg
  decide

/-- A legacy form names one of the first sixteen vector registers. -/
theorem legacyDst_toNat_lt (f : LegacyForm) : (legacyDst f).toNat < 16 := toNat_extensionIndex_lt ..

/-- A VEX form names one of the first sixteen vector registers. -/
theorem vexDst_toNat_lt (f : VexForm) : (vexDst f).toNat < 16 := toNat_extensionIndex_lt ..

/-- New low bits with the old upper bits kept fit where the old value did (R144). -/
theorem fitsFeatures_keepUpper {t : Features} {d : BitVec 5} {old : BitVec 512} (hd : d.toNat < 16)
    (hold : FitsFeatures t d old) (low : BitVec 128) : FitsFeatures t d (keepUpper old low) := by
  obtain ⟨hbits, -⟩ := hold
  refine ⟨fun j hj => ?_, fun _ hi => by omega⟩
  have := le_featureMaxvl_128 t
  rw [getLsbD_keepUpper, if_neg (by omega)]
  exact hbits j hj

/-- A value of `VL` bits with zeros above fits a low register when the features give `VL` bits (R160). -/
theorem fitsFeatures_setWidth {t : Features} {d : BitVec 5} {VL : Nat} (hd : d.toNat < 16)
    (hVL : VL ≤ featureMaxvl t) (v : BitVec VL) : FitsFeatures t d (v.setWidth 512) := by
  refine ⟨fun j hj => ?_, fun _ hi => by omega⟩
  rw [BitVec.getLsbD_setWidth, BitVec.getLsbD_of_ge v j (by omega), Bool.and_false]

/-- With AVX512F any value fits any register. -/
theorem fitsFeatures_of_avx512f {t : Features} (ht : t.avx512f = true) (d : BitVec 5) (v : BitVec 512) :
    FitsFeatures t d v := by
  have hmax : featureMaxvl t = 512 := by simp [featureMaxvl, ht]
  exact ⟨fun j hj => BitVec.getLsbD_of_ge v j (by omega), fun hf => by simp [ht] at hf⟩

/-! ### The shared meanings -/

theorem execMmx_keeps_inv {w : Nat} {f : LegacyForm} {s t : State} (hs : Inv s) (h : execMmx w f s = .next t) :
    Inv t := by
  obtain ⟨-, src, -, rfl⟩ := (execMmx_eq_next ..).1 h
  exact inv_advance (inv_setMm hs _ _) _

theorem execXmm_keeps_inv {w : Nat} {f : LegacyForm} {s t : State} (hs : Inv s) (h : execXmm w f s = .next t) :
    Inv t := by
  obtain ⟨-, src, -, rfl⟩ := (execXmm_eq_next ..).1 h
  have hv := fitsFeatures_keepUpper (legacyDst_toNat_lt f) (fitsFeatures_of_inv hs _) (packedAbs w 128 src)
  exact inv_advance (inv_setZmm hs hv) _

theorem execVex_keeps_inv {w VL : Nat} {x : Feature} {f : VexForm} {s t : State} (hs : Inv s)
    (hVL : s.cfg.feat.has x = true → VL ≤ featureMaxvl s.cfg.feat) (h : execVex w VL x f s = .next t) : Inv t := by
  obtain ⟨hchecks, src, -, rfl⟩ := (execVex_eq_next ..).1 h
  obtain ⟨-, -, hfeature, -⟩ := (vexChecks_eq_none ..).1 hchecks
  have hv := fitsFeatures_setWidth (vexDst_toNat_lt f) (hVL hfeature) (packedAbs w VL src)
  exact inv_advance (inv_setZmm hs hv) _

theorem execEvex_keeps_inv {w VL : Nat} {bcst : Bool} {fs : List Feature} {f : EvexForm} {s t : State} (hs : Inv s)
    (hfs : .avx512f ∈ fs ∨ .avx512bw ∈ fs) (h : execEvex w VL bcst fs f s = .next t) : Inv t := by
  obtain ⟨hchecks, src, -, rfl⟩ := (execEvex_eq_next ..).1 h
  obtain ⟨⟨-, hfeatures, -⟩, -⟩ := (evexChecks_eq_none ..).1 hchecks
  have havx512f := avx512f_of_hasFeatures (coherentFeatures_of_inv hs) hfeatures hfs
  exact inv_advance (inv_setZmm hs (fitsFeatures_of_avx512f havx512f _ _)) _

/-! ### The forms and the step -/

/-- Every form that runs keeps the invariant. -/
theorem exec_keeps_inv {i : Instr} {s t : State} (hs : Inv s) (h : exec i s = .next t) : Inv t := by
  cases i with
  | pabsbMm f | pabswMm f | pabsdMm f => exact execMmx_keeps_inv hs h
  | pabsbXmm f | pabswXmm f | pabsdXmm f => exact execXmm_keeps_inv hs h
  | vpabsbVex128 f | vpabswVex128 f | vpabsdVex128 f =>
    exact execVex_keeps_inv hs (fun _ => le_featureMaxvl_128 _) h
  | vpabsbVex256 f | vpabswVex256 f | vpabsdVex256 f =>
    exact execVex_keeps_inv hs (le_featureMaxvl_of_avx2 (coherentFeatures_of_inv hs)) h
  | vpabsbEvex128 f | vpabsbEvex256 f | vpabsbEvex512 f | vpabswEvex128 f | vpabswEvex256 f | vpabswEvex512 f =>
    exact execEvex_keeps_inv hs (.inr (by simp)) h
  | vpabsdEvex128 f | vpabsdEvex256 f | vpabsdEvex512 f | vpabsqEvex128 f | vpabsqEvex256 f | vpabsqEvex512 f =>
    exact execEvex_keeps_inv hs (.inl (by simp)) h

/-- Settles O48: a step stays in a final state or runs one form, and every form keeps the invariant. -/
theorem stepKeepsTheInvariant : Obligations.StepKeepsTheInvariant := by
  intro s t hs h
  rcases (step_eq_next s t).1 h with ⟨-, rfl⟩ | ⟨-, -, i, rest, -, hexec⟩
  · exact hs
  · exact exec_keeps_inv hs hexec

end Sys2Proof.Machine
end

section
/-!
SUPPORT. What the decoder answers is an instruction well formed in the mode (R90 to R109) that takes its length (R115):
the laws of its prefixes and operands put together, class by class.
-/
namespace Sys2Proof

/-! ### The rows: which forms an opcode byte stands for -/

/-- A legacy row keeps the fields; 66 tells the xmm forms from the MMX forms (R91). -/
theorem legacyRow_ok {op : Byte} {xmm : Bool} {row : LegacyForm → Instr}
    (h : legacyRow op xmm = some row) (f : LegacyForm) :
    (∀ mode, (row f).wellFormed mode = (f.wellFormed mode xmm && (xmm || f.mmxRexOk))) ∧ (row f).len = f.len := by
  cases xmm with
  | false =>
    simp only [legacyRow, Bool.false_eq_true, if_false] at h
    split_ifs at h <;> cases h <;> exact ⟨fun _ => rfl, rfl⟩
  | true =>
    simp only [legacyRow, if_true] at h
    split_ifs at h <;> cases h <;> exact ⟨fun _ => (Bool.and_true _).symm, rfl⟩

/-- A VEX row keeps the fields. -/
theorem vexRow_ok {op : Byte} {l : Bool} {row : VexForm → Instr} (h : vexRow op l = some row)
    (f : VexForm) : (∀ mode, (row f).wellFormed mode = f.wellFormed mode) ∧ (row f).len = f.len := by
  unfold vexRow at h
  split_ifs at h <;> cases h <;> exact ⟨fun _ => rfl, rfl⟩

/-- An EVEX triple keeps the fields; the W it was chosen by is the one its rows ask for (R83, R88). -/
theorem evexTriple_ok {op : Byte} {f : EvexForm} {triple : VecLen → EvexForm → Instr}
    (h : evexTriple op f.w = some triple) (vl : VecLen) :
    (∀ mode, (triple vl f).wellFormed mode = f.wellFormed mode) ∧ (triple vl f).len = f.len := by
  unfold evexTriple at h
  split_ifs at h <;> cases h <;> cases vl <;> simp_all [pickLen, Instr.wellFormed, Instr.len]

/-! ### The three classes, after the byte that selects the class (R114 step 3) -/

theorem notRow_ne_instr (p : Prefixes) (i : Instr) (rest : List Byte) : notRow p ≠ .instr i rest := by
  unfold notRow
  split_ifs <;> simp

theorem decodeLegacy_ok {mode : Mode} {p : Prefixes} {bs rest : List Byte} {i : Instr}
    (hp : p.wellFormed mode = true) (h : decodeLegacy p bs = .instr i rest) :
    i.wellFormed mode = true ∧ p.count + 1 + bs.length = i.len + rest.length := by
  unfold decodeLegacy at h
  split at h
  · cases h
  · split_ifs at h
  next b op bs =>
    split at h
    next =>
      split at h
      · cases h
      next row hrow =>
      split at h
      · cases h
      next hrep =>
      split at h
      · cases h
      next reg rm rest' hops =>
      dsimp only at h
      split_ifs at h with hrex
      cases h
      obtain ⟨hrm, hlen⟩ := takeOperands_ok _ _ _ _ hops
      obtain ⟨hwf, hrowLen⟩ := legacyRow_ok hrow { pfx := p, reg := reg, rm := rm }
      refine ⟨?_, ?_⟩
      · rw [hwf, hrex]
        simp_all [LegacyForm.wellFormed]
      · rw [hrowLen, LegacyForm.len]
        simp only [List.length_cons]
        omega
    · cases h

theorem decodeVex_ok {mode : Mode} {p : Prefixes} {bs rest : List Byte} {i : Instr}
    (hp : p.wellFormed mode = true) (h : decodeVex mode p bs = .instr i rest) :
    i.wellFormed mode = true ∧ p.count + 1 + bs.length = i.len + rest.length := by
  have extensionBits : ∀ v1 : Byte, v1.extractLsb' 5 3 = 7#3 →
      (v1.getLsbD 7 && v1.getLsbD 6 && v1.getLsbD 5) = true := by decide
  unfold decodeVex at h
  split at h
  · cases h
  · split_ifs at h
  · split_ifs at h
  next v1 v2 op bs =>
    split_ifs at h with hesc hfixed
    · obtain ⟨-, -, hmode⟩ := hfixed
      split at h
      · exact (notRow_ne_instr _ _ _ h).elim
      next row hrow =>
      split at h
      · cases h
      next reg rm rest' hops =>
      cases h
      obtain ⟨hrm, hlen⟩ := takeOperands_ok _ _ _ _ hops
      rw [(vexRow_ok hrow _).1, (vexRow_ok hrow _).2]
      refine ⟨?_, ?_⟩
      · have := hmode.imp_right (extensionBits v1)
        simp_all [VexForm.wellFormed]
      · simp only [VexForm.len, List.length_cons]
        omega
    · exact (notRow_ne_instr _ _ _ h).elim

theorem decodeEvex_ok {mode : Mode} {p : Prefixes} {bs rest : List Byte} {i : Instr}
    (hp : p.wellFormed mode = true) (h : decodeEvex mode p bs = .instr i rest) :
    i.wellFormed mode = true ∧ p.count + 1 + bs.length = i.len + rest.length := by
  have extensionBits : ∀ p0 : Byte, p0.extractLsb' 4 4 = 15#4 →
      (p0.getLsbD 7 && p0.getLsbD 6 && p0.getLsbD 5 && p0.getLsbD 4) = true := by decide
  unfold decodeEvex at h
  split at h
  · cases h
  next p0 p1 p2 op bs =>
    split_ifs at h with hesc hfixed
    · obtain ⟨-, -, hmode⟩ := hfixed
      split at h
      · exact (notRow_ne_instr _ _ _ h).elim
      next triple htriple =>
      split at h
      · cases h
      next reg rm rest' hops =>
      split at h
      · cases h
      next vl hvl =>
      cases h
      obtain ⟨hrm, hlen⟩ := takeOperands_ok _ _ _ _ hops
      rw [(evexTriple_ok htriple vl).1, (evexTriple_ok htriple vl).2]
      refine ⟨?_, ?_⟩
      · have := hmode.imp_right (extensionBits p0)
        simp_all [EvexForm.wellFormed]
      · simp only [EvexForm.len, List.length_cons]
        omega
    · exact (notRow_ne_instr _ _ _ h).elim
  · split_ifs at h

/-! ### The decoder -/

theorem decodeOpcode_ok {mode : Mode} {p : Prefixes} {bs rest : List Byte} {i : Instr}
    (hp : p.wellFormed mode = true) (h : decodeOpcode mode p bs = .instr i rest) :
    i.wellFormed mode = true ∧ p.count + bs.length = i.len + rest.length := by
  cases bs with
  | nil => cases h
  | cons b bs =>
    rw [List.length_cons, Nat.add_comm bs.length, ← Nat.add_assoc]
    rw [decodeOpcode] at h
    split_ifs at h
    · exact decodeLegacy_ok hp h
    · exact decodeVex_ok hp h
    · exact decodeEvex_ok hp h

theorem decode_ok {mode : Mode} {bs rest : List Byte} {i : Instr} (h : decode mode bs = .instr i rest) :
    i.wellFormed mode = true ∧ bs.length = i.len + rest.length := by
  unfold decode at h
  split at h
  · cases h
  · cases h
  next p afterPrefixes hscan =>
  split at h
  · cases h
  · cases h
  next p' afterRex hrex =>
  have hempty : Prefixes.wellFormed {} mode = true := by cases mode <;> rfl
  obtain ⟨hp, hnoRex, hlen⟩ := scanPrefixes_ok _ _ _ _ _ hscan rfl hempty
  obtain ⟨hp', hlen'⟩ := scanRex_ok _ _ _ _ _ hrex hnoRex hp
  obtain ⟨hi, hleni⟩ := decodeOpcode_ok hp' h
  have hcount : Prefixes.count {} = 0 := rfl
  exact ⟨hi, by omega⟩

end Sys2Proof
end

section
/-!
SUPPORT. The vector registers of `10_state.md` R21: an instruction well formed in a mode names only registers that its
class has there; a form that runs changes no vector register but the one it names, and has the features of its row.
-/
namespace Sys2Proof.Machine
open Sys2Proof.Safety

/-! ### The register numbers of a well-formed form lie in the bank of its class (R95, R98, R108) -/

/-- A register number without extension bits is below 8. -/
theorem toNat_plainIndex_lt (reg : BitVec 3) : (0#1 ++ 0#1 ++ reg).toNat < 8 := by
  revert reg
  decide

/-- In 32-bit mode no REX byte stands (R92). -/
theorem rex_of_wellFormed_mode32 {p : Prefixes} (h : p.wellFormed .mode32 = true) : p.rex = none := by
  simp only [Prefixes.wellFormed, Bool.and_eq_true, beq_iff_eq] at h
  exact h.2

theorem legacy_registers_lt {f : LegacyForm} {mode : Mode} {xmm : Bool} (h : f.wellFormed mode xmm = true) :
    (legacyDst f).toNat < nvec mode .legacy ∧ ∀ rm, (legacySrc f rm).toNat < nvec mode .legacy := by
  cases mode with
  | mode64 => exact ⟨toNat_extensionIndex_lt .., fun _ => toNat_extensionIndex_lt ..⟩
  | mode32 =>
    simp only [LegacyForm.wellFormed, Bool.and_eq_true] at h
    obtain ⟨⟨⟨⟨hpfx, -⟩, -⟩, -⟩, -⟩ := h
    have hrex := rex_of_wellFormed_mode32 hpfx
    simp only [legacyDst, legacySrc, legacyR, legacyB, hrex]
    exact ⟨toNat_plainIndex_lt _, toNat_plainIndex_lt⟩

theorem vex_registers_lt {f : VexForm} {mode : Mode} (h : f.wellFormed mode = true) :
    (vexDst f).toNat < nvec mode .vex ∧ ∀ rm, (vexSrc f rm).toNat < nvec mode .vex := by
  cases mode with
  | mode64 => exact ⟨toNat_extensionIndex_lt .., fun _ => toNat_extensionIndex_lt ..⟩
  | mode32 =>
    simp only [VexForm.wellFormed, Bool.and_eq_true, Bool.or_eq_true, beq_iff_eq, reduceCtorEq, false_or] at h
    obtain ⟨-, ⟨hr, -⟩, hb⟩ := h
    simp only [vexDst, vexSrc, hr, hb]
    exact ⟨toNat_plainIndex_lt _, toNat_plainIndex_lt⟩

theorem evex_registers_lt {f : EvexForm} {mode : Mode} (h : f.wellFormed mode = true) :
    (evexDst f).toNat < nvec mode .evex ∧ ∀ rm, (evexSrc f rm).toNat < nvec mode .evex := by
  cases mode with
  | mode64 => exact ⟨BitVec.isLt _, fun _ => BitVec.isLt _⟩
  | mode32 =>
    simp only [EvexForm.wellFormed, Bool.and_eq_true, Bool.or_eq_true, beq_iff_eq, reduceCtorEq, false_or] at h
    obtain ⟨-, ⟨⟨hr, hx⟩, hb⟩, hrHi⟩ := h
    simp only [evexDst, evexSrc, hr, hx, hb, hrHi]
    exact ⟨toNat_plainIndex_lt _, toNat_plainIndex_lt⟩

/-- A well-formed form that writes a vector register writes one of its class's bank. -/
theorem vectorDst_lt_nvec {i : Instr} {mode : Mode} {d : BitVec 5} (h : i.wellFormed mode = true)
    (hd : vectorDst i = some d) : d.toNat < nvec mode (encClass i) := by
  cases i with
  | pabsbMm f | pabswMm f | pabsdMm f => cases hd
  | pabsbXmm f | pabswXmm f | pabsdXmm f =>
    cases hd
    exact (legacy_registers_lt h).1
  | vpabsbVex128 f | vpabswVex128 f | vpabsdVex128 f | vpabsbVex256 f | vpabswVex256 f | vpabsdVex256 f =>
    cases hd
    exact (vex_registers_lt h).1
  | vpabsbEvex128 f | vpabsbEvex256 f | vpabsbEvex512 f | vpabswEvex128 f | vpabswEvex256 f | vpabswEvex512 f =>
    cases hd
    exact (evex_registers_lt h).1
  | vpabsdEvex128 f | vpabsdEvex256 f | vpabsdEvex512 f | vpabsqEvex128 f | vpabsqEvex256 f | vpabsqEvex512 f =>
    cases hd
    exact (evex_registers_lt (Bool.and_eq_true_iff.1 h).1).1

/-- A well-formed form that reads a vector register reads one of its class's bank. -/
theorem vectorSrc_lt_nvec {i : Instr} {mode : Mode} {r : BitVec 5} (h : i.wellFormed mode = true)
    (hr : vectorSrc i = some r) : r.toNat < nvec mode (encClass i) := by
  cases i with
  | pabsbMm f | pabswMm f | pabsdMm f => cases hr
  | pabsbXmm f | pabswXmm f | pabsdXmm f =>
    simp only [vectorSrc] at hr
    split at hr <;> cases hr
    exact (legacy_registers_lt h).2 _
  | vpabsbVex128 f | vpabswVex128 f | vpabsdVex128 f | vpabsbVex256 f | vpabswVex256 f | vpabsdVex256 f =>
    simp only [vectorSrc] at hr
    split at hr <;> cases hr
    exact (vex_registers_lt h).2 _
  | vpabsbEvex128 f | vpabsbEvex256 f | vpabsbEvex512 f | vpabswEvex128 f | vpabswEvex256 f | vpabswEvex512 f =>
    simp only [vectorSrc] at hr
    split at hr <;> cases hr
    exact (evex_registers_lt h).2 _
  | vpabsdEvex128 f | vpabsdEvex256 f | vpabsdEvex512 f | vpabsqEvex128 f | vpabsqEvex256 f | vpabsqEvex512 f =>
    simp only [vectorSrc] at hr
    split at hr <;> cases hr
    exact (evex_registers_lt (Bool.and_eq_true_iff.1 h).1).2 _

/-- Settles O4: what is decoded is well formed in the mode, and a well-formed form names registers of its bank. -/
theorem namedRegistersAreInTheBank : Obligations.NamedRegistersAreInTheBank := by
  intro mode bs i rest h
  obtain ⟨hi, -⟩ := decode_ok h
  exact ⟨fun _ hd => vectorDst_lt_nvec hi hd, fun _ hr => vectorSrc_lt_nvec hi hr⟩

/-! ### The registers that a form changes, and the features it needs -/

theorem State.zmmReg_setZmm_of_ne {s : State} {d j : BitVec 5} {v : BitVec 512} (h : some d ≠ some j) :
    (s.setZmm d v).zmmReg j = s.zmmReg j := by
  rw [State.zmmReg_setZmm, if_neg (fun hj => h (congrArg some hj.symm))]

/-- A form that runs changes no vector register but the one it names (R108). -/
theorem zmmReg_of_exec_eq_next {i : Instr} {s t : State} (h : exec i s = .next t) {j : BitVec 5}
    (hj : vectorDst i ≠ some j) : t.zmmReg j = s.zmmReg j := by
  cases i with
  | pabsbMm f | pabswMm f | pabsdMm f =>
    obtain ⟨-, src, -, rfl⟩ := (execMmx_eq_next ..).1 h
    rfl
  | pabsbXmm f | pabswXmm f | pabsdXmm f =>
    obtain ⟨-, src, -, rfl⟩ := (execXmm_eq_next ..).1 h
    exact State.zmmReg_setZmm_of_ne hj
  | vpabsbVex128 f | vpabswVex128 f | vpabsdVex128 f | vpabsbVex256 f | vpabswVex256 f | vpabsdVex256 f =>
    obtain ⟨-, src, -, rfl⟩ := (execVex_eq_next ..).1 h
    exact State.zmmReg_setZmm_of_ne hj
  | vpabsbEvex128 f | vpabsbEvex256 f | vpabsbEvex512 f | vpabswEvex128 f | vpabswEvex256 f | vpabswEvex512 f
  | vpabsdEvex128 f | vpabsdEvex256 f | vpabsdEvex512 f | vpabsqEvex128 f | vpabsqEvex256 f | vpabsqEvex512 f =>
    obtain ⟨-, src, -, rfl⟩ := (execEvex_eq_next ..).1 h
    exact State.zmmReg_setZmm_of_ne hj

/-- A form runs only with the features of its row (R219). -/
theorem hasFeatures_of_exec_eq_next {i : Instr} {s t : State} (h : exec i s = .next t) :
    HasFeatures s.cfg (rowFeatures i) := by
  cases i with
  | pabsbMm f | pabswMm f | pabsdMm f =>
    obtain ⟨hchecks, -⟩ := (execMmx_eq_next ..).1 h
    obtain ⟨-, hssse3, -⟩ := (mmxChecks_eq_none ..).1 hchecks
    exact List.forall_mem_singleton.2 hssse3
  | pabsbXmm f | pabswXmm f | pabsdXmm f =>
    obtain ⟨hchecks, -⟩ := (execXmm_eq_next ..).1 h
    obtain ⟨-, hssse3, -⟩ := (xmmChecks_eq_none ..).1 hchecks
    exact List.forall_mem_singleton.2 hssse3
  | vpabsbVex128 f | vpabswVex128 f | vpabsdVex128 f | vpabsbVex256 f | vpabswVex256 f | vpabsdVex256 f =>
    obtain ⟨hchecks, -⟩ := (execVex_eq_next ..).1 h
    obtain ⟨-, -, hfeature, -⟩ := (vexChecks_eq_none ..).1 hchecks
    exact List.forall_mem_singleton.2 hfeature
  | vpabsbEvex128 f | vpabsbEvex256 f | vpabsbEvex512 f | vpabswEvex128 f | vpabswEvex256 f | vpabswEvex512 f
  | vpabsdEvex128 f | vpabsdEvex256 f | vpabsdEvex512 f | vpabsqEvex128 f | vpabsqEvex256 f | vpabsqEvex512 f =>
    obtain ⟨hchecks, -⟩ := (execEvex_eq_next ..).1 h
    obtain ⟨⟨-, hfeatures, -⟩, -⟩ := (evexChecks_eq_none ..).1 hchecks
    exact hfeatures

/-- Every EVEX row asks for AVX512F or for AVX512BW (R89). -/
theorem avx512_mem_rowFeatures {i : Instr} (h : encClass i = .evex) :
    .avx512f ∈ rowFeatures i ∨ .avx512bw ∈ rowFeatures i := by
  cases i <;> simp [encClass, rowFeatures] at h ⊢

/-- Only the EVEX forms can name a register above 15 (R21). -/
theorem nvec_le_of_ne_evex (mode : Mode) {c : EncClass} (h : c ≠ .evex) : nvec mode c ≤ 16 := by
  cases mode <;> cases c <;> simp [nvec] at h ⊢

/-- Without AVX512F and AVX512BW no EVEX form runs. -/
theorem encClass_ne_evex_of_exec_eq_next {i : Instr} {s t : State} (h : exec i s = .next t)
    (hf : s.cfg.feat.avx512f = false) (hbw : s.cfg.feat.avx512bw = false) : encClass i ≠ .evex := by
  intro hclass
  have hfeatures := hasFeatures_of_exec_eq_next h
  rcases avx512_mem_rowFeatures hclass with hmem | hmem
  · exact Bool.false_ne_true (hf.symm.trans (hfeatures _ hmem))
  · exact Bool.false_ne_true (hbw.symm.trans (hfeatures _ hmem))

/-- Settles O51: a step changes at most the register its form names. In 32-bit mode that one is below 8; without
AVX512F and AVX512BW the form is a legacy or a VEX form, and the register below 16. -/
theorem mode32StepsLeaveHighRegistersAlone : Obligations.Mode32StepsLeaveHighRegistersAlone := by
  intro s t h
  rcases (step_eq_next s t).1 h with ⟨-, rfl⟩ | ⟨-, -, i, rest, hdecode, hexec⟩
  · exact ⟨fun _ _ _ => rfl, fun _ _ _ _ => rfl⟩
  · obtain ⟨hi, -⟩ := decode_ok hdecode
    refine ⟨fun hmode j hj => zmmReg_of_exec_eq_next hexec fun hd => ?_,
      fun hf hbw j hj => zmmReg_of_exec_eq_next hexec fun hd => ?_⟩
    · have hlt := vectorDst_lt_nvec hi hd
      rw [hmode] at hlt
      exact absurd hlt (Nat.not_lt.2 hj)
    · have hlt := vectorDst_lt_nvec hi hd
      have hle := nvec_le_of_ne_evex s.cfg.mode (encClass_ne_evex_of_exec_eq_next hexec hf hbw)
      omega

end Sys2Proof.Machine
end

section
/-!
SUPPORT. The reset state, whose values are the model's choice (assumption log 4 to 8), and the table that stands for
`Access` (assumption log 2).
-/
namespace Sys2Proof.Machine
open Sys2Proof.Safety

/-! ### The reset state -/

theorem zmmReg_reset (i : BitVec 5) : State.reset.zmmReg i = 0 := Vector.getElem_replicate ..

theorem mmReg_reset (i : BitVec 3) : State.reset.mmReg i = 0 := Vector.getElem_replicate ..

theorem kReg_reset (i : BitVec 3) : State.reset.kReg i = 0 := Vector.getElem_replicate ..

theorem gprReg_reset (i : BitVec 4) : State.reset.gprReg i = 0 := Vector.getElem_replicate ..

theorem hasFeature_reset (x : Feature) : State.reset.cfg.feat.has x = true := by
  cases x <;> rfl

/-- Settles O49: all six features are on, so they are coherent and any register value fits them. -/
theorem resetMeetsTheInvariant : Obligations.ResetMeetsTheInvariant :=
  (inv_iff_fitsFeatures _).2
    ⟨rfl, ⟨fun _ => rfl, fun _ => rfl, fun _ => rfl, fun _ => rfl⟩, fun i => fitsFeatures_of_avx512f rfl i _⟩

/-- OsEnabled (R264) holds at reset. -/
theorem osEnabled_reset : OsEnabled State.reset.cfg.env := by
  exact ⟨rfl, rfl, rfl, rfl, ⟨rfl, rfl, rfl⟩, rfl, rfl, rfl⟩

theorem noAlignCheck_reset : NoAlignCheck State.reset.cfg := by
  rintro ⟨hAm, -⟩
  cases hAm

theorem not_final_reset : ¬ Final State.reset := show State.reset.rip ≠ State.reset.cfg.endAddr by decide

/-- Settles O50: the registers are read one by one, memory and the device list are empty, and the configuration is
`resetConfig`. -/
theorem resetState : Obligations.ResetState :=
  ⟨zmmReg_reset, mmReg_reset, kReg_reset, gprReg_reset, rfl, rfl, rfl, fun _ => rfl, osEnabled_reset,
    noAlignCheck_reset, rfl, hasFeature_reset, rfl, fun _ _ => rfl, not_final_reset⟩

/-! ### The table of `Access` (R62) -/

/-- A row covers an access when it names its kind, level, address and width. -/
theorem covers_eq_true (e : AccessFault) (env : Env) (kind : AccessKind) (lin n : Nat) :
    e.covers env kind lin n = true ↔
      e.kind = kind ∧ env.cpl ∈ e.cpls ∧ e.first ≤ lin ∧ lin ≤ e.last ∧ e.width = n := by
  simp [AccessFault.covers, and_assoc]

/-- Of `env`, a row reads the privilege level alone (R29). -/
theorem covers_congr_cpl {env env' : Env} (h : env'.cpl = env.cpl) (e : AccessFault) (kind : AccessKind)
    (lin n : Nat) : e.covers env' kind lin n = e.covers env kind lin n := by
  rw [AccessFault.covers, h, AccessFault.covers]

/-- A table of one row answers the row's code where the row covers the access. -/
theorem accessCheck_singleton {c : Config} {e : AccessFault} (h : c.access = [e]) (kind : AccessKind)
    (lin n : Nat) : accessCheck c kind lin n = if e.covers c.env kind lin n then some e.code else none := by
  rw [accessCheck, h, List.find?_singleton]
  split_ifs <;> rfl

/-- Settles O53: the table is searched for a row that covers the access, and covering reads the privilege level. -/
theorem accessUsesThePrivilegeLevel : Obligations.AccessUsesThePrivilegeLevel := by
  intro c kind lin n
  refine ⟨fun e he => ?_, fun env hcpl => ?_⟩
  · simp only [accessCheck_singleton he, covers_eq_true]
  · simp only [accessCheck, covers_congr_cpl hcpl]

end Sys2Proof.Machine
end

section
/-!
SUPPORT. An instruction's bytes decode to that instruction, whatever follows (R114): the parts of the encoding read
back, class by class.
-/
namespace Sys2Proof

/-! ### The bits of the VEX and EVEX bytes read back (R93, R97) -/

/-- V1: the extension bits, and the map 0F38. -/
theorem VexForm.v1_fields (f : VexForm) :
    f.v1.getLsbD 7 = f.rBar ∧ f.v1.getLsbD 6 = f.xBar ∧ f.v1.getLsbD 5 = f.bBar ∧ f.v1.extractLsb' 0 5 = 2#5 := by
  have bits : ∀ r x b : Bool,
      let v : Byte := BitVec.ofBool r ++ BitVec.ofBool x ++ BitVec.ofBool b ++ 2#5
      v.getLsbD 7 = r ∧ v.getLsbD 6 = x ∧ v.getLsbD 5 = b ∧ v.extractLsb' 0 5 = 2#5 := by decide
  exact bits _ _ _

/-- V2: W, `vvvv`, L, and `pp` = 66. -/
theorem VexForm.v2_fields (f : VexForm) (l : Bool) :
    (f.v2 l).getLsbD 7 = f.w ∧ (f.v2 l).extractLsb' 3 4 = f.vvvv ∧ (f.v2 l).getLsbD 2 = l ∧
      (f.v2 l).extractLsb' 0 2 = 1#2 := by
  have bits : ∀ (w : Bool) (vvvv : BitVec 4) (l : Bool),
      let v : Byte := BitVec.ofBool w ++ vvvv ++ BitVec.ofBool l ++ 1#2
      v.getLsbD 7 = w ∧ v.extractLsb' 3 4 = vvvv ∧ v.getLsbD 2 = l ∧ v.extractLsb' 0 2 = 1#2 := by decide
  exact bits _ _ _

/-- P0: the extension bits, the fixed bits, and the map 0F38. -/
theorem EvexForm.p0_fields (f : EvexForm) :
    f.p0.getLsbD 7 = f.rBar ∧ f.p0.getLsbD 6 = f.xBar ∧ f.p0.getLsbD 5 = f.bBar ∧ f.p0.getLsbD 4 = f.rHiBar ∧
      f.p0.extractLsb' 2 2 = f.p0Fixed ∧ f.p0.extractLsb' 0 2 = 2#2 := by
  have bits : ∀ (r x b rHi : Bool) (fixed : BitVec 2),
      let v : Byte := BitVec.ofBool r ++ BitVec.ofBool x ++ BitVec.ofBool b ++ BitVec.ofBool rHi ++ fixed ++ 2#2
      v.getLsbD 7 = r ∧ v.getLsbD 6 = x ∧ v.getLsbD 5 = b ∧ v.getLsbD 4 = rHi ∧ v.extractLsb' 2 2 = fixed ∧
        v.extractLsb' 0 2 = 2#2 := by decide
  exact bits _ _ _ _ _

/-- P1: W, `vvvv`, the fixed bit, and `pp` = 66. -/
theorem EvexForm.p1_fields (f : EvexForm) :
    f.p1.getLsbD 7 = f.w ∧ f.p1.extractLsb' 3 4 = f.vvvv ∧ f.p1.getLsbD 2 = f.p1Fixed ∧
      f.p1.extractLsb' 0 2 = 1#2 := by
  have bits : ∀ (w : Bool) (vvvv : BitVec 4) (fixed : Bool),
      let v : Byte := BitVec.ofBool w ++ vvvv ++ BitVec.ofBool fixed ++ 1#2
      v.getLsbD 7 = w ∧ v.extractLsb' 3 4 = vvvv ∧ v.getLsbD 2 = fixed ∧ v.extractLsb' 0 2 = 1#2 := by decide
  exact bits _ _ _

/-- P2: z, `L'L`, b, V' and `aaa`. -/
theorem EvexForm.p2_fields (f : EvexForm) (ll : BitVec 2) :
    (f.p2 ll).getLsbD 7 = f.z ∧ (f.p2 ll).extractLsb' 5 2 = ll ∧ (f.p2 ll).getLsbD 4 = f.b ∧
      (f.p2 ll).getLsbD 3 = f.vHiBar ∧ (f.p2 ll).extractLsb' 0 3 = f.aaa := by
  have bits : ∀ (z : Bool) (ll : BitVec 2) (b vHi : Bool) (aaa : BitVec 3),
      let v : Byte := BitVec.ofBool z ++ ll ++ BitVec.ofBool b ++ BitVec.ofBool vHi ++ aaa
      v.getLsbD 7 = z ∧ v.extractLsb' 5 2 = ll ∧ v.getLsbD 4 = b ∧ v.getLsbD 3 = vHi ∧
        v.extractLsb' 0 3 = aaa := by decide
  exact bits _ _ _ _ _

/-! ### In 32-bit mode a well-formed VEX or EVEX form is no LES or BOUND (R95, R98) -/

theorem VexForm.v1_escape {f : VexForm} {mode : Mode} (h : f.wellFormed mode = true) :
    vexEscape mode f.v1 = true ∧ (mode = .mode64 ∨ f.v1.extractLsb' 5 3 = 7#3) := by
  cases mode with
  | mode64 => exact ⟨rfl, .inl rfl⟩
  | mode32 =>
    simp only [VexForm.wellFormed, Bool.and_eq_true, Bool.or_eq_true, beq_iff_eq, reduceCtorEq, false_or] at h
    obtain ⟨-, ⟨hr, hx⟩, hb⟩ := h
    rw [VexForm.v1, hr, hx, hb]
    decide

theorem EvexForm.p0_escape {f : EvexForm} {mode : Mode} (h : f.wellFormed mode = true) :
    vexEscape mode f.p0 = true ∧ (mode = .mode64 ∨ f.p0.extractLsb' 4 4 = 15#4) := by
  cases mode with
  | mode64 => exact ⟨rfl, .inl rfl⟩
  | mode32 =>
    simp only [EvexForm.wellFormed, Bool.and_eq_true, Bool.or_eq_true, beq_iff_eq, reduceCtorEq, false_or] at h
    obtain ⟨-, ⟨⟨hr, hx⟩, hb⟩, hrHi⟩ := h
    have fixed : ∀ b : BitVec 2,
        let v : Byte := BitVec.ofBool true ++ BitVec.ofBool true ++ BitVec.ofBool true ++ BitVec.ofBool true ++ b ++ 2#2
        vexEscape .mode32 v = true ∧ (Mode.mode32 = .mode64 ∨ v.extractLsb' 4 4 = 15#4) := by decide
    rw [EvexForm.p0, hr, hx, hb, hrHi]
    exact fixed _

/-! ### The three classes -/

theorem decode_encodeLegacy {mode : Mode} {op : Byte} {xmm : Bool} {row : LegacyForm → Instr} {f : LegacyForm}
    (hrow : legacyRow op xmm = some row) (hf : f.wellFormed mode xmm = true) (hrex : (xmm || f.mmxRexOk) = true)
    (rest : List Byte) : decode mode (encodeLegacy op f ++ rest) = .instr (row f) rest := by
  simp only [LegacyForm.wellFormed, Bool.and_eq_true, Bool.not_eq_true', beq_iff_eq] at hf
  obtain ⟨⟨⟨⟨hpfx, hrm⟩, hrepne⟩, hrep⟩, rfl⟩ := hf
  rw [encodeLegacy, List.append_assoc, List.cons_append,
    decode_encodePrefixes mode f.pfx hpfx 0x0F#8 _ rfl rfl]
  simp only [decodeOpcode, decodeLegacy, List.cons_append, if_true, hrow, hrepne, hrep,
    takeOperands_encodeOperands _ _ _ hrm]
  exact if_pos hrex

theorem decode_encodeVex {mode : Mode} {op : Byte} {l : Bool} {row : VexForm → Instr} {f : VexForm}
    (hrow : vexRow op l = some row) (hf : f.wellFormed mode = true) (rest : List Byte) :
    decode mode (encodeVex op l f ++ rest) = .instr (row f) rest := by
  obtain ⟨hescape, hmode⟩ := VexForm.v1_escape hf
  obtain ⟨hr, hx, hb, hmap⟩ := f.v1_fields
  obtain ⟨hw, hvvvv, hl, hpp⟩ := f.v2_fields l
  simp only [VexForm.wellFormed, Bool.and_eq_true] at hf
  obtain ⟨⟨hpfx, hrm⟩, -⟩ := hf
  rw [encodeVex, List.append_assoc, List.cons_append,
    decode_encodePrefixes mode f.pfx hpfx 0xC4#8 _ rfl rfl]
  have hne : ¬ (0xC4#8 = 0x0F#8) := by decide
  simp only [decodeOpcode, hne, decodeVex, List.cons_append, if_true, if_false, hescape, hmap, hpp, hmode, and_self, hl,
    hrow, takeOperands_encodeOperands _ _ _ hrm, hr, hx, hb, hw, hvvvv]

theorem decode_encodeEvex {mode : Mode} {op : Byte} {ll : BitVec 2} {triple : VecLen → EvexForm → Instr}
    {vl : VecLen} {f : EvexForm} {i : Instr} (htriple : evexTriple op f.w = some triple) (hvl : vecLen ll = some vl)
    (hi : triple vl f = i) (hf : f.wellFormed mode = true) (rest : List Byte) :
    decode mode (encodeEvex op ll f ++ rest) = .instr i rest := by
  subst hi
  obtain ⟨hescape, hmode⟩ := EvexForm.p0_escape hf
  obtain ⟨hr, hx, hb, hrHi, hfixed0, hmap⟩ := f.p0_fields
  obtain ⟨hw, hvvvv, hfixed1, hpp⟩ := f.p1_fields
  obtain ⟨hz, hll, hbcst, hvHi, haaa⟩ := f.p2_fields ll
  simp only [EvexForm.wellFormed, Bool.and_eq_true] at hf
  obtain ⟨⟨hpfx, hrm⟩, -⟩ := hf
  rw [encodeEvex, List.append_assoc, List.cons_append,
    decode_encodePrefixes mode f.pfx hpfx 0x62#8 _ rfl rfl]
  have hne : ¬ (0x62#8 = 0x0F#8) ∧ ¬ (0x62#8 = 0xC4#8) := by decide
  simp only [decodeOpcode, hne, decodeEvex, List.cons_append, if_true, if_false, hescape, hmap, hpp, hmode, and_self,
    hw, htriple, takeOperands_encodeOperands _ _ _ hrm, hll, hvl, hr, hx, hb, hrHi, hfixed0, hvvvv, hfixed1, hz, hbcst,
    hvHi, haaa]

/-! ### The 24 forms -/

/-- The bytes of a well-formed instruction decode to it, whatever follows (R114). -/
theorem decode_encode {mode : Mode} {i : Instr} (h : i.wellFormed mode = true) (rest : List Byte) :
    decode mode (encode i ++ rest) = .instr i rest := by
  cases i with
  | pabsbMm f | pabswMm f | pabsdMm f =>
    obtain ⟨hf, hrex⟩ := Bool.and_eq_true_iff.1 h
    exact decode_encodeLegacy rfl hf hrex rest
  | pabsbXmm f | pabswXmm f | pabsdXmm f => exact decode_encodeLegacy (xmm := true) rfl h rfl rest
  | vpabsbVex128 f | vpabswVex128 f | vpabsdVex128 f | vpabsbVex256 f | vpabswVex256 f | vpabsdVex256 f =>
    exact decode_encodeVex rfl h rest
  | vpabsbEvex128 f | vpabsbEvex256 f | vpabsbEvex512 f | vpabswEvex128 f | vpabswEvex256 f | vpabswEvex512 f =>
    exact decode_encodeEvex (by rfl) (by rfl) (by rfl) h rest
  | vpabsdEvex128 f | vpabsdEvex256 f | vpabsdEvex512 f =>
    obtain ⟨hf, hw⟩ := Bool.and_eq_true_iff.1 h
    rw [Bool.not_eq_true'] at hw
    exact decode_encodeEvex (by rw [hw]; rfl) (by rfl) (by rfl) hf rest
  | vpabsqEvex128 f | vpabsqEvex256 f | vpabsqEvex512 f =>
    obtain ⟨hf, hw⟩ := Bool.and_eq_true_iff.1 h
    exact decode_encodeEvex (by rw [hw]; rfl) (by rfl) (by rfl) hf rest

/-- The bytes of an instruction are as many as its length (R115). -/
theorem encode_length (i : Instr) : (encode i).length = i.len := by
  cases i with
  | pabsbMm f | pabsbXmm f | pabswMm f | pabswXmm f | pabsdMm f | pabsdXmm f => exact Laws.encodeLegacy_length _ f
  | vpabsbVex128 f | vpabswVex128 f | vpabsdVex128 f | vpabsbVex256 f | vpabswVex256 f | vpabsdVex256 f =>
    exact Laws.encodeVex_length _ _ f
  | vpabsbEvex128 f | vpabsbEvex256 f | vpabsbEvex512 f | vpabswEvex128 f | vpabswEvex256 f | vpabswEvex512 f
  | vpabsdEvex128 f | vpabsdEvex256 f | vpabsdEvex512 f | vpabsqEvex128 f | vpabsqEvex256 f | vpabsqEvex512 f =>
    exact Laws.encodeEvex_length _ _ f

end Sys2Proof
end

section
/-!
SUPPORT. What the next step executes: the instruction whose bytes stand at the fetch address (R68, R270), and what a
step leaves unchanged (R60).
-/
namespace Sys2Proof.Machine
open Sys2Proof.Safety

/-- A step runs the instruction that the fetched bytes decode to. -/
theorem step_eq_exec {s : State} {i : Instr} {rest : List Byte} (h : ¬ Final s) (hd : NoDebug s.cfg)
    (hdecode : decode s.cfg.mode (fetch s).1 = .instr i rest) : step s = exec i s := by
  rw [step_eq_decoded s h hd, hdecode]

/-- Settles O41: the fetch begins with the instruction's bytes, and those decode to it whatever follows. -/
theorem programTextRuns : Obligations.ProgramTextRuns := by
  intro s i hfinal hdebug hi hlen htext hfetch
  rw [← encode_length] at hlen hfetch
  obtain ⟨rest, hbytes⟩ := fetch_of_textAt s (encode i) hlen htext hfetch
  refine step_eq_exec (rest := rest) hfinal hdebug ?_
  rw [hbytes]
  exact decode_encode hi rest

/-! ### What a form leaves unchanged -/

theorem sameSystem_refl (s : State) : SameSystem s s := ⟨fun _ => rfl, fun _ => rfl, fun _ => rfl, rfl, rfl, rfl⟩

theorem onlyMm_setMm_advance (s : State) (d : BitVec 3) (v : BitVec 64) (n : Nat) :
    OnlyMm d s ((s.setMm d v).advance n) :=
  ⟨fun i hi => by rw [State.mmReg_advance, State.mmReg_setMm, if_neg hi], fun _ => rfl, sameSystem_refl s⟩

theorem onlyZmm_setZmm_advance (s : State) (d : BitVec 5) (v : BitVec 512) (n : Nat) :
    OnlyZmm d s ((s.setZmm d v).advance n) :=
  ⟨fun i hi => by rw [State.zmmReg_advance, State.zmmReg_setZmm, if_neg hi], fun _ => rfl, sameSystem_refl s⟩

/-- A form that runs writes one MMX or one vector register and moves `rip` by its length; nothing else changes. -/
theorem exec_frame {i : Instr} {s t : State} (h : exec i s = .next t) :
    ((∃ d, OnlyMm d s t) ∨ ∃ d, OnlyZmm d s t) ∧ t.rip = s.rip + BitVec.ofNat 64 i.len := by
  cases i with
  | pabsbMm f | pabswMm f | pabsdMm f =>
    obtain ⟨-, src, -, rfl⟩ := (execMmx_eq_next ..).1 h
    exact ⟨.inl ⟨_, onlyMm_setMm_advance ..⟩, rfl⟩
  | pabsbXmm f | pabswXmm f | pabsdXmm f =>
    obtain ⟨-, src, -, rfl⟩ := (execXmm_eq_next ..).1 h
    exact ⟨.inr ⟨_, onlyZmm_setZmm_advance ..⟩, rfl⟩
  | vpabsbVex128 f | vpabswVex128 f | vpabsdVex128 f | vpabsbVex256 f | vpabswVex256 f | vpabsdVex256 f =>
    obtain ⟨-, src, -, rfl⟩ := (execVex_eq_next ..).1 h
    exact ⟨.inr ⟨_, onlyZmm_setZmm_advance ..⟩, rfl⟩
  | vpabsbEvex128 f | vpabsbEvex256 f | vpabsbEvex512 f | vpabswEvex128 f | vpabswEvex256 f | vpabswEvex512 f
  | vpabsdEvex128 f | vpabsdEvex256 f | vpabsdEvex512 f | vpabsqEvex128 f | vpabsqEvex256 f | vpabsqEvex512 f =>
    obtain ⟨-, src, -, rfl⟩ := (execEvex_eq_next ..).1 h
    exact ⟨.inr ⟨_, onlyZmm_setZmm_advance ..⟩, rfl⟩

/-- Every instruction has an opcode byte (R115). -/
theorem one_le_len (i : Instr) : 1 ≤ i.len := by
  cases i <;> simp only [Instr.len, LegacyForm.len, VexForm.len, EvexForm.len] <;> omega

/-- Settles O46: a final state stays; otherwise the form that ran has the frame of `exec_frame`, and its bytes are among
the fifteen fetched. -/
theorem stepLeavesSystemStateAlone : Obligations.StepLeavesSystemStateAlone := by
  intro s t h
  rcases (step_eq_next s t).1 h with ⟨hfinal, rfl⟩ | ⟨-, -, i, rest, hdecode, hexec⟩
  · exact ⟨sameSystem_refl t, .inl fun _ => rfl, .inl fun _ => rfl, .inl ⟨hfinal, rfl⟩⟩
  · obtain ⟨honly, hrip⟩ := exec_frame hexec
    have hlen : i.len ≤ 15 := by
      obtain ⟨-, hbytes⟩ := decode_ok hdecode
      have := fetch_length_le s
      rw [maxLen] at this
      omega
    have hadvance := And.intro (one_le_len i) (And.intro hlen hrip)
    rcases honly with ⟨d, hmm, hzmm, hsystem⟩ | ⟨d, hzmm, hmm, hsystem⟩
    · exact ⟨hsystem, .inl hzmm, .inr ⟨d, hmm⟩, .inr ⟨i, rest, hdecode, hadvance⟩⟩
    · exact ⟨hsystem, .inr ⟨⟨d, hzmm⟩, hmm⟩, .inl hmm, .inr ⟨i, rest, hdecode, hadvance⟩⟩

/-! ### A word placed where the next step fetches -/

theorem wordBytes_length (nbits w : Nat) : (wordBytes nbits w).length = 15 := by
  simp [wordBytes, maxLen]

theorem topAddress_eq (mode : Mode) : topAddress mode = if mode = .mode64 then 2 ^ 64 else 2 ^ 32 := by
  cases mode <;> rfl

theorem fetchStop_of_top_le {c : Config} {a : Nat} (h : topAddress c.mode ≤ a) :
    fetchStop c a = some (.refused .pastTop) := if_pos h

/-- Bytes that can be fetched in 64-bit mode lie below the top of the address space. -/
theorem lt_of_fetchable {s : State} {n i : Nat} (hmode : s.cfg.mode = .mode64) (h : Fetchable s n) (hi : i < n) :
    fetchAddress s + i < 2 ^ 64 := by
  by_contra htop
  have hstop := h i hi
  rw [fetchStop_of_top_le (by rw [hmode]; exact Nat.not_lt.1 htop)] at hstop
  cases hstop

/-- Bytes placed below the top of the address space stand at the fetch address. -/
theorem textAt_writeBytes {m : Memory} {a : Nat} {bs : List Byte} (h : Memory.wf m = true)
    (ha : a + bs.length ≤ 2 ^ 64) : TextAt (writeBytes m a bs) a bs := by
  intro i hi
  rw [readByte_writeBytes m a (a + i) bs h ha, dif_pos ⟨Nat.le_add_right .., by omega⟩]
  simp only [Nat.add_sub_cancel_left]

/-- Fifteen bytes that stand at the fetch address and can be fetched are all that a fetch gives. -/
theorem fetch_eq_of_textAt {s : State} {bs : List Byte} (hlen : bs.length = maxLen)
    (htext : TextAt s.mem (fetchAddress s) bs) (hfetch : Fetchable s bs.length) : (fetch s).1 = bs := by
  obtain ⟨rest, hbytes⟩ := fetch_of_textAt s bs hlen.le htext hfetch
  have hle := fetch_length_le s
  rw [hbytes, List.length_append] at hle
  rw [hbytes, List.length_eq_zero_iff.1 (show rest.length = 0 by omega), List.append_nil]

theorem decode_of_decodeTableWord {nbits w : Nat} {i : Instr} (h : decodeTableWord nbits w = some i) :
    ∃ rest, decode .mode64 (wordBytes nbits w) = .instr i rest := by
  unfold decodeTableWord at h
  split at h
  next j rest hdecode =>
    cases h
    exact ⟨rest, hdecode⟩
  · cases h

/-- Settles O59: the fifteen bytes read back, so the fetch gives the word's bytes; outside them memory reads as
before. -/
theorem placedWordRuns : Obligations.PlacedWordRuns := by
  intro s nbits w i hwf hmode hfinal hdebug hfetch hword
  have haddr : fetchAddress s = s.rip.toNat := by rw [fetchAddress, hmode]
  have hlen := wordBytes_length nbits w
  have htop : fetchAddress s + (wordBytes nbits w).length ≤ 2 ^ 64 := by
    have := lt_of_fetchable (i := 14) hmode hfetch (by decide)
    omega
  refine ⟨?_, fun a ha => ?_, rfl⟩
  · obtain ⟨rest, hdecode⟩ := decode_of_decodeTableWord hword
    have hfetch' : Fetchable (s.withFetchWord nbits w) (wordBytes nbits w).length := by
      rw [hlen]
      exact hfetch
    have htext : TextAt (s.withFetchWord nbits w).mem (fetchAddress (s.withFetchWord nbits w)) (wordBytes nbits w) := by
      rw [State.withFetchWord_mem, State.fetchAddress_withFetchWord]
      exact textAt_writeBytes hwf htop
    have hbytes := fetch_eq_of_textAt hlen htext hfetch'
    have hfinal' : ¬ Final (s.withFetchWord nbits w) := by
      rwa [Final, State.withFetchWord_rip, State.withFetchWord_cfg]
    have hdebug' : NoDebug (s.withFetchWord nbits w).cfg := by rwa [State.withFetchWord_cfg]
    refine step_eq_exec (rest := rest) hfinal' hdebug' ?_
    rw [hbytes, State.withFetchWord_cfg, hmode]
    exact hdecode
  · rw [State.withFetchWord_mem, readByte_writeBytes _ _ _ _ hwf htop, dif_neg (by omega)]

/-! ### Where a fetch stops -/

/-- A fetch that stops after `k` bytes gives them, and why it stops. -/
theorem fetch_of_stop {s : State} {k : Nat} {e : FetchEnd} (hk : k < maxLen) (hfetch : Fetchable s k)
    (hstop : fetchStop s.cfg (fetchAddress s + k) = some e) :
    fetch s = ((List.range k).map fun i => readByte s.mem (fetchAddress s + i), e) := by
  obtain ⟨n, hn⟩ : ∃ n, maxLen - k = n + 1 := ⟨maxLen - k - 1, by omega⟩
  rw [fetch, fetchFrom_of_fetchable _ _ _ _ _ hk.le hfetch, hn, fetchFrom, hstop]
  simp

/-- Fifteen bytes that can be fetched end a fetch. -/
theorem fetch_of_limit {s : State} (hfetch : Fetchable s maxLen) :
    fetch s = ((List.range maxLen).map fun i => readByte s.mem (fetchAddress s + i), .limit) := by
  rw [fetch, fetchFrom_of_fetchable _ _ _ _ _ le_rfl hfetch, Nat.sub_self, fetchFrom]
  simp

/-- Bytes that end before the instruction does give the outcome of the fetch's end. -/
theorem step_of_truncated {s : State} {bs : List Byte} {e : FetchEnd} (h : ¬ Final s) (hd : NoDebug s.cfg)
    (hfetch : fetch s = (bs, e)) (hdecode : decode s.cfg.mode bs = .truncated) : step s = fetchEndOutcome e := by
  rw [step_eq_decoded s h hd, hfetch, hdecode]

theorem fetchStop_of_not_canonical {c : Config} {a : Nat} (hmode : c.mode = .mode64) (htop : a < topAddress c.mode)
    (h : canonical c.law a = false) : fetchStop c a = some (.fault .gp0) := by
  rw [fetchStop, if_neg (Nat.not_le.2 htop), if_pos ⟨hmode, h⟩]

theorem fetchStop_of_access {c : Config} {a : Nat} {code : BitVec 32} (htop : a < topAddress c.mode)
    (hcanonical : c.mode = .mode64 → canonical c.law a = true) (h : accessCheck c .fetch a 1 = some code) :
    fetchStop c a = some (.fault (.pf code)) := by
  have hin : ¬ (c.mode = .mode64 ∧ canonical c.law a = false) := fun ⟨hmode, hnot⟩ =>
    Bool.false_ne_true (hnot.symm.trans (hcanonical hmode))
  rw [fetchStop, if_neg (Nat.not_le.2 htop), if_neg hin, h, Option.map_some]

/-- Settles O45: the bytes before the one that cannot be fetched decide nothing, so the step's outcome is the reason
that byte stops the fetch. -/
theorem fetchFaults : Obligations.FetchFaults := by
  intro s k hfinal hdebug _ hfetch hdecode
  have outcome : ∀ e, k < 15 → fetchStop s.cfg (fetchAddress s + k) = some e → step s = fetchEndOutcome e :=
    fun e hk hstop => step_of_truncated hfinal hdebug (fetch_of_stop hk hfetch hstop) hdecode
  rw [← topAddress_eq]
  refine ⟨?limit, fun hk hmode htop hnot => ?canonicality, fun code hk htop hcanonical hpf => ?access,
    fun hk htop => ?top⟩
  case limit =>
    rintro rfl
    exact step_of_truncated hfinal hdebug (fetch_of_limit hfetch) hdecode
  case canonicality => exact outcome _ hk (fetchStop_of_not_canonical hmode (by rw [hmode]; exact htop) hnot)
  case access => exact outcome _ hk (fetchStop_of_access htop hcanonical hpf)
  case top => exact outcome _ hk (fetchStop_of_top_le htop.ge)

end Sys2Proof.Machine
end

section
/-!
SUPPORT. Linear memory (`20_memory.md`): the byte order of a load, linear addresses and their range, the alignment
check, and the refusal to read what is not ordinary memory.
-/
namespace Sys2Proof.Machine
open Sys2Proof.Safety

/-! ### Byte order (R51) -/

/-- Settles O14: a load is made of the bytes as lanes of width 8. -/
theorem loadIsLittleEndian : Obligations.LoadIsLittleEndian := by
  intro n m lin i hi
  have hn : 8 * n / 8 = n := Nat.mul_div_cancel_left n (by decide)
  rw [loadLE, hn]
  exact lane_packLanes 8 (8 * n) _ n i hi le_rfl

/-! ### Linear addresses (R63) -/

theorem linear_eq_ea {s : State} {seg : Seg} (h : s.cfg.mode = .mode32 ∨ (seg ≠ .fs ∧ seg ≠ .gs))
    (ea : BitVec 64) : linear s seg ea = ea := by
  unfold linear
  split
  next hmode => simp [hmode] at h
  next hmode => simp [hmode] at h
  · rfl

theorem linear_fs {s : State} (h : s.cfg.mode = .mode64) (ea : BitVec 64) : linear s .fs ea = s.fsBase + ea := by
  simp only [linear, h]

theorem linear_gs {s : State} (h : s.cfg.mode = .mode64) (ea : BitVec 64) : linear s .gs ea = s.gsBase + ea := by
  simp only [linear, h]

/-! ### Canonical addresses, bit by bit (R63) -/

/-- The bits of an `n`-bit number from `k` on are all 0 or all 1 exactly where the number lies in the lowest or the
highest `2^k` numbers: it, or its complement, is below `2^k`. -/
theorem bits_eq_top_iff {k n a : Nat} (hk : k < n) :
    (a < 2 ^ k ∨ (2 ^ n - 2 ^ k ≤ a ∧ a < 2 ^ n)) ↔
      a < 2 ^ n ∧ ∀ b, k ≤ b → b < n → a.testBit b = a.testBit (n - 1) := by
  have hpow : 2 ^ k ≤ 2 ^ n := Nat.pow_le_pow_right (by decide) hk.le
  have complement : ∀ c, c < 2 ^ n → a = 2 ^ n - (c + 1) → ∀ b, b < n → a.testBit b = !c.testBit b := by
    rintro c hc rfl b hb
    rw [Nat.testBit_two_pow_sub_succ hc, decide_eq_true hb, Bool.true_and]
  have highBits : ∀ {c b : Nat}, c < 2 ^ k → k ≤ b → c.testBit b = false := fun hc hb =>
    Nat.testBit_lt_two_pow (hc.trans_le (Nat.pow_le_pow_right (by decide) hb))
  constructor
  · rintro (hlow | ⟨hhigh, htop⟩)
    · exact ⟨by omega, fun b hb _ => by rw [highBits hlow hb, highBits hlow (by omega)]⟩
    · have hbits := complement (2 ^ n - (a + 1)) (by omega) (by omega)
      have hc : 2 ^ n - (a + 1) < 2 ^ k := by omega
      exact ⟨htop, fun b hb hbn => by
        rw [hbits b hbn, hbits (n - 1) (by omega), highBits hc hb, highBits hc (by omega)]⟩
  · rintro ⟨htop, hbits⟩
    cases hsign : a.testBit (n - 1) with
    | false =>
      refine .inl (Nat.lt_pow_two_of_testBit a fun b hb => ?_)
      by_cases hbn : b < n
      · rw [hbits b hb hbn, hsign]
      · exact Nat.testBit_lt_two_pow (htop.trans_le (Nat.pow_le_pow_right (by decide) (by omega)))
    | true =>
      have hcbits := complement (2 ^ n - (a + 1)) (by omega) (by omega)
      have hc : 2 ^ n - (a + 1) < 2 ^ k := by
        refine Nat.lt_pow_two_of_testBit _ fun b hb => ?_
        by_cases hbn : b < n
        · simpa [hbits b hb hbn, hsign] using hcbits b hbn
        · refine Nat.testBit_lt_two_pow (lt_of_lt_of_le ?_ (Nat.pow_le_pow_right (by decide) (show n ≤ b by omega)))
          omega
      exact .inr ⟨by omega, htop⟩

/-- R63: bits 63 down to `LAW` - 1 of a canonical address are all equal. -/
theorem canonical_eq_true (law : LinearWidth) (a : Nat) :
    canonical law a = true ↔
      a < 2 ^ 64 ∧ ∀ b, law.bits - 1 ≤ b → b < 64 → a.testBit b = a.testBit 63 := by
  have hlaw : law.bits - 1 < 64 := by cases law <;> decide
  rw [canonical, Bool.or_eq_true, Bool.and_eq_true, decide_eq_true_iff, decide_eq_true_iff, decide_eq_true_iff]
  exact bits_eq_top_iff hlaw

theorem rangeOk_mode64 {c : Config} (h : c.mode = .mode64) (lin n : Nat) :
    rangeOk c lin n = true ↔ ∀ i < n, canonical c.law (lin + i) = true := by
  simp only [rangeOk, h, List.all_eq_true, List.mem_range]

theorem rangeOk_mode32 {c : Config} (h : c.mode = .mode32) (lin n : Nat) :
    rangeOk c lin n = true ↔ lin + n ≤ 2 ^ 32 := by
  simp only [rangeOk, h, decide_eq_true_iff]

/-- Settles O15: the linear address by mode and segment; a range in 64-bit mode passes where each of its addresses is
canonical, which `canonical_eq_true` reads bit by bit. -/
theorem linearAddressAndRange : Obligations.LinearAddressAndRange := by
  intro s seg ea lin n
  refine ⟨fun h => linear_eq_ea h ea, fun hmode => ⟨?fs, ?gs⟩, fun hmode => ?range64, fun hmode hn => ?range32,
    rfl, fun hseg => if_neg hseg⟩
  case fs => rw [linear_fs hmode, BitVec.toNat_add]
  case gs => rw [linear_gs hmode, BitVec.toNat_add]
  case range64 => simp only [rangeOk_mode64 hmode, canonical_eq_true]
  case range32 =>
    rw [rangeOk_mode32 hmode]
    omega

/-! ### The alignment check (R58) -/

theorem alignmentCheckingOn_eq_false (c : Config) : alignmentCheckingOn c.env = false ↔ NoAlignCheck c := by
  rw [← Bool.not_eq_true, NoAlignCheck, alignmentCheckingOn]
  simp [and_assoc]

theorem alignCheck_of_noAlignCheck {c : Config} (h : NoAlignCheck c) (shape : AcShape) (lin n : Nat) :
    alignCheck c shape lin n = false := by
  rw [alignCheck, (alignmentCheckingOn_eq_false c).2 h, Bool.false_and]

/-- Settles O16: with alignment checking on, the check is the policy's own condition. -/
theorem alignmentCheckPolicies : Obligations.AlignmentCheckPolicies := by
  intro c shape lin n
  refine ⟨fun h => alignCheck_of_noAlignCheck h shape lin n, fun h => ?_⟩
  have hon : alignmentCheckingOn c.env = true :=
    Bool.eq_true_of_not_eq_false (mt (alignmentCheckingOn_eq_false c).1 h)
  refine ⟨fun hpolicy => ?never, fun hpolicy => ?mmxOnly, fun hpolicy => ?smallOnly, fun hpolicy => ?always⟩ <;>
    simp [alignCheck, hon, hpolicy]

/-! ### Reads of what is not ordinary memory (R60) -/

/-- A read of a device that no check stops is refused. -/
theorem memRead_of_device {s : State} {seg : Seg} {lin L : Nat} {al : Bool} {shape : AcShape}
    (hal : al = true → Aligned16 lin) (h : DeviceOperand s.cfg lin (L / 8) shape) :
    memRead s seg lin L al shape = .error (.refused .deviceRead) := by
  obtain ⟨⟨hrange, haccess⟩, hac, hdevice⟩ := h
  exact (memRead_eq_refused ..).2 ⟨hrange, hal, haccess, hac, hdevice, rfl⟩

/-- The same of a read with fault suppression: every element whose mask bit is 1 passes the checks, and one of them is
not ordinary memory (`60_exceptions.md` R236). -/
theorem memReadMasked_of_device {s : State} {seg : Seg} {lin w L : Nat} {mask : BitVec 64}
    (haccessible : ∀ j < L / w, mask.getLsbD j = true → Accessible s.cfg (lin + j * (w / 8)) (w / 8))
    (hac : alignCheck s.cfg .vector lin (L / 8) = false)
    (hdevice : ∃ j < L / w, mask.getLsbD j = true ∧ ordinary s.cfg (lin + j * (w / 8)) (w / 8) = false) :
    memReadMasked s seg lin w L mask = .error (.refused .deviceRead) := by
  obtain ⟨d, hd, hbit, hdev⟩ := hdevice
  have hmem : d ∈ activeElements mask (L / w) := (mem_activeElements ..).2 ⟨hd, hbit⟩
  have accessible : ∀ j ∈ activeElements mask (L / w), Accessible s.cfg (lin + j * (w / 8)) (w / 8) := fun j hj =>
    haccessible j ((mem_activeElements ..).1 hj).1 ((mem_activeElements ..).1 hj).2
  have hsome : (activeElements mask (L / w)).isEmpty = false :=
    Bool.eq_false_of_not_eq_true fun hempty => List.ne_nil_of_mem hmem (List.isEmpty_iff.1 hempty)
  have hrange : ((activeElements mask (L / w)).any fun j => !rangeOk s.cfg (lin + j * (w / 8)) (w / 8)) = false :=
    List.any_eq_false.2 fun j hj => by simp [(accessible j hj).1]
  have haccess : ((activeElements mask (L / w)).findSome? fun j =>
      accessCheck s.cfg .dataRead (lin + j * (w / 8)) (w / 8)) = none :=
    List.findSome?_eq_none_iff.2 fun j hj => (accessible j hj).2
  have hordinary : ((activeElements mask (L / w)).any fun j => !ordinary s.cfg (lin + j * (w / 8)) (w / 8)) = true :=
    List.any_eq_true.2 ⟨d, hmem, by rw [hdev, Bool.not_false]⟩
  simp [memReadMasked, hsome, hrange, haccess, hac, hordinary]

/-! ### The source of a form, by class -/

theorem execMmx_device {w : Nat} {c : LegacyForm → Instr} (hc : ∀ f s, exec (c f) s = execMmx w f s) :
    MmxDeviceRefused c := by
  intro s f m hrm hready hdevice
  rw [hc, execMmx_eq_refused, mmxChecks_eq_none, mmxSource, hrm]
  exact ⟨hready, memRead_of_device (L := 64) nofun hdevice⟩

theorem execXmm_device {w : Nat} {c : LegacyForm → Instr} (hc : ∀ f s, exec (c f) s = execXmm w f s) :
    XmmDeviceRefused c := by
  intro s f m hrm hready haligned hdevice
  rw [hc, execXmm_eq_refused, xmmChecks_eq_none, xmmSource, hrm]
  exact ⟨hready, memRead_of_device (L := 128) (fun _ => haligned) hdevice⟩

theorem execVex_device {w VL : Nat} {x : Feature} {c : VexForm → Instr}
    (hc : ∀ f s, exec (c f) s = execVex w VL x f s) : VexDeviceRefused c VL x := by
  intro s f m hrm hready hdevice
  rw [hc, execVex_eq_refused, vexChecks_eq_none, vexSource, hrm]
  exact ⟨hready, memRead_of_device nofun hdevice⟩

/-! ### The memory source of an EVEX form, by how it is read (R182, R236) -/

section
variable {w VL : Nat} {s : State} {f : EvexForm} {m : MemRef}

theorem evexSource_whole (hrm : f.rm = .mem m) (hb : f.b = false) (h : s.cfg.suppress = false ∨ f.aaa = 0#3) :
    evexSource w VL s f = memRead s (segmentOf f.pfx (!f.bBar) m) (evexAddress w VL s f m) VL false .vector := by
  rcases h with h | h <;> simp [evexSource, evexMemSource, hrm, hb, h]

theorem evexSource_masked (hrm : f.rm = .mem m) (hb : f.b = false) (hs : s.cfg.suppress = true)
    (haaa : f.aaa ≠ 0#3) :
    evexSource w VL s f =
      memReadMasked s (segmentOf f.pfx (!f.bBar) m) (evexAddress w VL s f m) w VL (writeMask s f) := by
  simp [evexSource, evexMemSource, hrm, hb, hs, haaa]

theorem evexSource_broadcast (hrm : f.rm = .mem m) (hb : f.b = true)
    (h : s.cfg.suppress = false ∨ ∃ j < VL / w, (writeMask s f).getLsbD j = true) :
    evexSource w VL s f =
      (memRead s (segmentOf f.pfx (!f.bBar) m) (evexAddress w VL s f m) w false .broadcast).map
        (broadcast w VL) := by
  have hread : (s.cfg.suppress && (activeElements (writeMask s f) (VL / w)).isEmpty) = false := by
    rcases h with h | ⟨j, hj, hbit⟩
    · rw [h, Bool.false_and]
    · have hmem : j ∈ activeElements (writeMask s f) (VL / w) := (mem_activeElements ..).2 ⟨hj, hbit⟩
      rw [List.isEmpty_eq_false_iff.2 (List.ne_nil_of_mem hmem), Bool.and_false]
  simp [evexSource, evexMemSource, hrm, hb, hread]

end

theorem not_broadcastBad {bcst : Bool} {f : EvexForm} {m : MemRef} (hrm : f.rm = .mem m)
    (h : f.b = true → bcst = true) : ¬ BroadcastBad bcst f := by
  rintro ⟨hb, hbad | ⟨r, hr⟩⟩
  · exact Bool.false_ne_true (hbad.symm.trans (h hb))
  · cases hrm.symm.trans hr

/-- An EVEX form whose vector has at most 64 elements, so that each has its mask bit (R181). -/
theorem execEvex_device {w VL : Nat} {bcst : Bool} {fs : List Feature} {c : EvexForm → Instr}
    (hc : ∀ f s, exec (c f) s = execEvex w VL bcst fs f s) (hlanes : VL / w ≤ 64) :
    EvexDeviceRefused c w VL bcst fs := by
  intro s f m hrm hready
  have maskBit : ∀ {j}, j < VL / w → ((writeMask s f).getLsbD j = true ↔ MaskBit s f j) := fun hj =>
    getLsbD_writeMask s f _ (hj.trans_le hlanes)
  have refused : (f.b = true → bcst = true) → evexSource w VL s f = .error (.refused .deviceRead) →
      exec (c f) s = .refused .deviceRead := fun hb hsource => by
    rw [hc, execEvex_eq_refused, evexChecks_eq_none]
    exact ⟨⟨hready, not_broadcastBad hrm hb⟩, hsource⟩
  refine ⟨fun hb hmask hdevice => ?whole, fun hb hbcst hmask hdevice => ?broadcast,
    fun hb hs haaa haccessible hac hdevice => ?masked⟩
  case whole =>
    refine refused (by simp [hb]) ?_
    rw [evexSource_whole hrm hb hmask]
    exact memRead_of_device nofun hdevice
  case broadcast =>
    refine refused (fun _ => hbcst) ?_
    rw [evexSource_broadcast hrm hb (hmask.imp_right fun ⟨j, hj, hbit⟩ => ⟨j, hj, (maskBit hj).2 hbit⟩),
      memRead_of_device (al := false) nofun hdevice]
    rfl
  case masked =>
    refine refused (by simp [hb]) ?_
    rw [evexSource_masked hrm hb hs haaa]
    obtain ⟨j, hj, hbit, hdev⟩ := hdevice
    exact memReadMasked_of_device (fun j hj hbit => haccessible j hj ((maskBit hj).1 hbit)) hac
      ⟨j, hj, (maskBit hj).2 hbit, hdev⟩

/-- Settles O35: each form is the shared meaning of its class. -/
theorem deviceReadsAreRefused : Obligations.DeviceReadsAreRefused := by
  refine ⟨execMmx_device fun _ _ => rfl, execMmx_device fun _ _ => rfl, execMmx_device fun _ _ => rfl,
    execXmm_device fun _ _ => rfl, execXmm_device fun _ _ => rfl, execXmm_device fun _ _ => rfl,
    execVex_device fun _ _ => rfl, execVex_device fun _ _ => rfl, execVex_device fun _ _ => rfl,
    execVex_device fun _ _ => rfl, execVex_device fun _ _ => rfl, execVex_device fun _ _ => rfl, ?_⟩
  refine ⟨?_, ?_, ?_, ?_, ?_, ?_, ?_, ?_, ?_, ?_, ?_, ?_⟩ <;> exact execEvex_device (fun _ _ => rfl) (by decide)

end Sys2Proof.Machine
end

section
/-!
SUPPORT. The decoder against the encoder (`30_encoding.md` R114, R115), and the bytes that it answers with a refusal or
an invalid opcode: reserved vector lengths (R119), neighbouring opcodes (R94, R123), and prefixes that are not admitted
(R90, R124).
-/
namespace Sys2Proof

/-- Settles O1, by the 24 forms. -/
theorem decodeEncodeAllForms : Obligations.DecodeEncodeAllForms :=
  fun _ _ rest h => decode_encode h rest

/-- Settles O2, by the decoder's branches. -/
theorem decodedIsWellFormedAndLong : Obligations.DecodedIsWellFormedAndLong :=
  fun _ _ _ _ h => decode_ok h

/-- Bytes that the encoder gives for a well-formed instruction decode to it. -/
theorem decode_of_encode_eq {mode : Mode} {i : Instr} {bs : List Byte} (hi : i.wellFormed mode = true)
    (hbs : encode i = bs) : decode mode bs = .instr i [] := by
  rw [← hbs, ← List.append_nil (encode i)]
  exact decode_encode hi []

/-- Settles O3: each word is the encoding of its form. -/
theorem canonicalWordsDecode : Obligations.CanonicalWordsDecode :=
  ⟨decode_of_encode_eq rfl (by decide), decode_of_encode_eq rfl (by decide), decode_of_encode_eq rfl (by decide),
    decode_of_encode_eq rfl (by decide), decode_of_encode_eq rfl (by decide)⟩

/-! ### Reserved vector lengths (R119) -/

/-- An EVEX form's bytes with a reserved `L'L` are an invalid opcode, whatever follows. -/
theorem decode_encodeEvex_reserved {mode : Mode} {op : Byte} {ll : BitVec 2} {f : EvexForm}
    (htriple : (evexTriple op f.w).isSome = true) (hvl : vecLen ll = none) (hf : f.wellFormed mode = true)
    (rest : List Byte) : decode mode (encodeEvex op ll f ++ rest) = .invalidOpcode := by
  obtain ⟨triple, htriple⟩ := Option.isSome_iff_exists.1 htriple
  obtain ⟨hescape, hmode⟩ := EvexForm.p0_escape hf
  obtain ⟨-, -, -, -, -, hmap⟩ := f.p0_fields
  obtain ⟨hw, -, -, hpp⟩ := f.p1_fields
  obtain ⟨-, hll, -⟩ := f.p2_fields ll
  simp only [EvexForm.wellFormed, Bool.and_eq_true] at hf
  obtain ⟨⟨hpfx, hrm⟩, -⟩ := hf
  rw [encodeEvex, List.append_assoc, List.cons_append, decode_encodePrefixes mode f.pfx hpfx 0x62#8 _ rfl rfl]
  have hne : ¬ (0x62#8 = 0x0F#8) ∧ ¬ (0x62#8 = 0xC4#8) := by decide
  simp only [decodeOpcode, hne, decodeEvex, List.cons_append, if_true, if_false, hescape, hmap, hpp, hmode, and_self,
    hw, htriple, takeOperands_encodeOperands _ _ _ hrm, hll, hvl]

open Machine Safety in
/-- Settles O5: the bytes fetched begin with the form's, and those are an invalid opcode whatever follows. -/
theorem reservedVectorLengthIsInvalid : Obligations.ReservedVectorLengthIsInvalid := by
  refine ⟨fun mode op f rest hf htriple => decode_encodeEvex_reserved htriple rfl hf rest,
    fun s op f hfinal hf htriple hlen hdebug htext hfetch => ?_⟩
  rw [← Laws.encodeEvex_length op 3#2] at hlen hfetch
  obtain ⟨rest, hbytes⟩ := fetch_of_textAt s (encodeEvex op 3#2 f) hlen htext hfetch
  rw [step_eq_decoded s hfinal hdebug, hbytes, decode_encodeEvex_reserved htriple rfl hf]
  rfl

/-! ### Neighbouring opcodes (R94, R123) -/

/-- Without stray prefixes, bytes that are no row are outside this spec. -/
theorem notRow_of_no_stray {p : Prefixes} (h : p.strayBeforeVex = false) : notRow p = .rejected .notInGroup := by
  rw [notRow, h]
  rfl

/-- A VEX byte sequence of another opcode, map or `pp` than the rows'. -/
theorem decodeVex_notInGroup {mode : Mode} {p : Prefixes} {v1 v2 op : Byte} (hp : p.strayBeforeVex = false)
    (h : vexRow op (v2.getLsbD 2) = none ∨ v1.extractLsb' 0 5 ≠ 2#5 ∨ v2.extractLsb' 0 2 ≠ 1#2) (bs : List Byte) :
    decodeVex mode p (v1 :: v2 :: op :: bs) = .rejected .notInGroup := by
  rw [decodeVex, notRow_of_no_stray hp]
  split_ifs with _ hfixed
  · obtain ⟨hmap, hpp, -⟩ := hfixed
    rcases h with hrow | hne | hne
    · rw [hrow]
    · exact absurd hmap hne
    · exact absurd hpp hne
  · rfl
  · rfl

/-- An EVEX byte sequence of another opcode with its W, map or `pp` than the rows'. -/
theorem decodeEvex_notInGroup {mode : Mode} {p : Prefixes} {p0 p1 p2 op : Byte} (hp : p.strayBeforeVex = false)
    (h : evexTriple op (p1.getLsbD 7) = none ∨ p0.extractLsb' 0 2 ≠ 2#2 ∨ p1.extractLsb' 0 2 ≠ 1#2)
    (bs : List Byte) : decodeEvex mode p (p0 :: p1 :: p2 :: op :: bs) = .rejected .notInGroup := by
  rw [decodeEvex, notRow_of_no_stray hp]
  split_ifs with _ hfixed
  · obtain ⟨hmap, hpp, -⟩ := hfixed
    rcases h with hrow | hne | hne
    · rw [hrow]
    · exact absurd hmap hne
    · exact absurd hpp hne
  · rfl
  · rfl

/-- Bytes without prefixes are read by their opcode. -/
theorem decode_eq_decodeOpcode (mode : Mode) {b : Byte} (hb : pfxByte b = none) (hr : isRexByte b = false)
    (bs : List Byte) : decode mode (b :: bs) = decodeOpcode mode {} (b :: bs) :=
  decode_encodePrefixes mode {} (by cases mode <;> rfl) b bs hb hr

/-- Settles O6: the byte after the prefixes selects the class, and no row of that class has these bytes. -/
theorem neighbouringOpcodesAreOutside : Obligations.NeighbouringOpcodesAreOutside := by
  intro mode bs v1 v2 p0 p1 p2 op
  have vex : ∀ op, decode mode (0xC4#8 :: v1 :: v2 :: op :: bs) = decodeVex mode {} (v1 :: v2 :: op :: bs) :=
    fun _ => decode_eq_decodeOpcode mode rfl rfl _
  have evex : ∀ op, decode mode (0x62#8 :: p0 :: p1 :: p2 :: op :: bs) =
      decodeEvex mode {} (p0 :: p1 :: p2 :: op :: bs) := fun _ => decode_eq_decodeOpcode mode rfl rfl _
  refine ⟨decode_eq_decodeOpcode mode rfl rfl _, ?legacy66, ?vexOpcode, fun hw => ?evexW1, fun hw => ?evexW0,
    fun h => ?vexMap, fun h => ?evexMap, decode_eq_decodeOpcode mode rfl rfl _⟩
  case legacy66 =>
    exact decode_encodePrefixes mode { opsize := true } (by cases mode <;> rfl) 0x0F#8 (0x38#8 :: 0x1F#8 :: bs) rfl rfl
  case vexOpcode =>
    rw [vex]
    exact decodeVex_notInGroup rfl (.inl rfl) bs
  case evexW1 =>
    rw [evex]
    exact decodeEvex_notInGroup rfl (.inl (by rw [hw]; rfl)) bs
  case evexW0 =>
    rw [evex]
    exact decodeEvex_notInGroup rfl (.inl (by rw [hw]; rfl)) bs
  case vexMap =>
    rw [vex]
    exact decodeVex_notInGroup rfl (.inr h) bs
  case evexMap =>
    rw [evex]
    exact decodeEvex_notInGroup rfl (.inr h) bs

/-! ### Prefixes that are not admitted (R90, R124) -/

/-- The place that a byte of the legacy prefixes has in the set is taken; the segment overrides share one. -/
def Prefixes.taken (p : Prefixes) : PfxByte → Bool
  | .seg _  => p.seg.isSome
  | .opsize => p.opsize
  | .addr32 => p.addr32
  | .lock   => p.lock
  | .repne  => p.repne
  | .rep    => p.rep

/-- A byte is added to the prefixes only where its place is free; it takes that place and frees none. -/
theorem taken_of_addPrefix_ok {mode : Mode} {p p' : Prefixes} {j : PfxByte} (h : addPrefix mode p j = .ok p') :
    p.taken j = false ∧ p'.taken j = true ∧ ∀ k, p.taken k = true → p'.taken k = true := by
  cases j with
  | seg s =>
    simp only [addPrefix] at h
    split_ifs at h with _ hfree
    cases h
    exact ⟨Bool.eq_false_of_not_eq_true hfree, rfl, fun k hk => by cases k <;> simp_all [Prefixes.taken]⟩
  | _ =>
    simp only [addPrefix] at h
    split_ifs at h
    cases h
    exact ⟨Bool.eq_false_of_not_eq_true ‹_›, rfl, fun k hk => by cases k <;> simp_all [Prefixes.taken]⟩

/-- The bytes are refused if the first one is, or if what follows it is whenever it is admitted. -/
theorem scanPrefixes_reject_cons {mode : Mode} {p : Prefixes} {b : Byte} {bs : List Byte} {k : PfxByte}
    (hb : pfxByte b = some k)
    (h : ∀ p', addPrefix mode p k = .ok p' → ∃ r, scanPrefixes mode p' bs = .reject r) :
    ∃ r, scanPrefixes mode p (b :: bs) = .reject r := by
  cases hadd : addPrefix mode p k with
  | error r => exact ⟨r, by simp only [scanPrefixes, hb, hadd]⟩
  | ok p' =>
    rw [scanPrefixes_cons mode p p' b k bs hb hadd]
    exact h p' hadd

/-- A byte whose place among the prefixes is taken is refused, also after other prefixes. -/
theorem scanPrefixes_reject_of_taken {mode : Mode} {mid : List Byte} {c : Byte} {k : PfxByte}
    (hmid : ∀ x ∈ mid, (pfxByte x).isSome = true) (hc : pfxByte c = some k) (bs : List Byte) {p : Prefixes}
    (hp : p.taken k = true) : ∃ r, scanPrefixes mode p (mid ++ c :: bs) = .reject r := by
  induction mid generalizing p with
  | nil =>
    refine scanPrefixes_reject_cons hc fun p' hadd => ?_
    obtain ⟨hfree, -⟩ := taken_of_addPrefix_ok hadd
    exact absurd (hfree.symm.trans hp) Bool.false_ne_true
  | cons x mid ih =>
    obtain ⟨hx, hmid⟩ := List.forall_mem_cons.1 hmid
    obtain ⟨j, hj⟩ := Option.isSome_iff_exists.1 hx
    refine scanPrefixes_reject_cons hj fun p' hadd => ih hmid ?_
    obtain ⟨-, -, hkeep⟩ := taken_of_addPrefix_ok hadd
    exact hkeep k hp

/-- Of two prefixes for the same place the second is refused, wherever among the prefixes they stand. -/
theorem scanPrefixes_reject_of_two {mode : Mode} {pre mid : List Byte} {b c : Byte} {j k : PfxByte}
    (hpre : ∀ x ∈ pre, (pfxByte x).isSome = true) (hmid : ∀ x ∈ mid, (pfxByte x).isSome = true)
    (hb : pfxByte b = some j) (hc : pfxByte c = some k) (hplace : ∀ p : Prefixes, p.taken j = p.taken k)
    (bs : List Byte) (p : Prefixes) : ∃ r, scanPrefixes mode p (pre ++ b :: (mid ++ c :: bs)) = .reject r := by
  induction pre generalizing p with
  | nil =>
    refine scanPrefixes_reject_cons hb fun p' hadd => scanPrefixes_reject_of_taken hmid hc bs ?_
    obtain ⟨-, htaken, -⟩ := taken_of_addPrefix_ok hadd
    rwa [← hplace p']
  | cons x pre ih =>
    obtain ⟨hx, hpre⟩ := List.forall_mem_cons.1 hpre
    obtain ⟨i, hi⟩ := Option.isSome_iff_exists.1 hx
    exact scanPrefixes_reject_cons hi fun p' _ => ih hpre p'

/-- The same of the decoder. -/
theorem decode_reject_of_two {mode : Mode} {pre mid : List Byte} {b c : Byte} {j k : PfxByte}
    (hprefixes : ∀ x ∈ pre ++ mid, (pfxByte x).isSome = true) (hb : pfxByte b = some j) (hc : pfxByte c = some k)
    (hplace : ∀ p : Prefixes, p.taken j = p.taken k) (bs : List Byte) :
    ∃ r, decode mode (pre ++ b :: (mid ++ c :: bs)) = .rejected r := by
  obtain ⟨hpre, hmid⟩ := List.forall_mem_append.1 hprefixes
  obtain ⟨r, hscan⟩ := scanPrefixes_reject_of_two (mode := mode) hpre hmid hb hc hplace bs {}
  exact ⟨r, by rw [decode, hscan]⟩

/-- F2 or F3 before a legacy opcode of the group is refused (R124). -/
theorem decode_encodeLegacy_rep {mode : Mode} {op : Byte} {f : LegacyForm} {row : LegacyForm → Instr}
    (hrow : legacyRow op f.pfx.opsize = some row) (hpfx : f.pfx.wellFormed mode = true)
    (hrep : f.pfx.repne = true ∨ f.pfx.rep = true) (rest : List Byte) :
    decode mode (encodeLegacy op f ++ rest) = .rejected .repBeforeLegacy := by
  rw [encodeLegacy, List.append_assoc, List.cons_append, decode_encodePrefixes mode f.pfx hpfx 0x0F#8 _ rfl rfl]
  simp only [decodeOpcode, decodeLegacy, List.cons_append, if_true, hrow]
  exact if_pos (Bool.or_eq_true_iff.2 hrep)

/-- Settles O7: the decoder admits one byte of the prefixes for each place, and the segment overrides share theirs. -/
theorem prefixesNotAdmittedAreRefused : Obligations.PrefixesNotAdmittedAreRefused := by
  refine ⟨fun mode op f rest hop hpfx hrep => ?rep, fun mode pre mid bs b hprefixes hb => ?twice,
    fun mode pre mid bs x y hprefixes _ =>
      decode_reject_of_two hprefixes (pfxByte_segCode x) (pfxByte_segCode y) (fun _ => rfl) bs⟩
  case rep =>
    rcases hop with rfl | rfl | rfl <;> exact decode_encodeLegacy_rep (by rfl) hpfx hrep rest
  case twice =>
    obtain ⟨k, hk⟩ := Option.isSome_iff_exists.1 hb
    exact decode_reject_of_two hprefixes hk hk (fun _ => rfl) bs

end Sys2Proof
end

section
/-!
SUPPORT. The invalid opcodes that a form's own fields raise (`60_exceptions.md` R218 to R222): reserved fields, LOCK and
stray prefixes; and the W bits that raise nothing (`30_encoding.md` R82, R83).
-/
namespace Sys2Proof.Machine
open Sys2Proof.Safety

/-! ### The checks of a class: `#UD` first, then `#NM` -/

theorem execMmx_of_ud {w : Nat} {f : LegacyForm} {s : State} (h : mmxUd s.cfg f = true) :
    execMmx w f s = .fault .ud :=
  (execMmx_eq_fault ..).2 (.inl ((mmxChecks_eq_some ..).2 (.inl ⟨h, rfl⟩)))

theorem execXmm_of_ud {w : Nat} {f : LegacyForm} {s : State} (h : xmmUd s.cfg f = true) :
    execXmm w f s = .fault .ud :=
  (execXmm_eq_fault ..).2 (.inl ((udThenNm_eq_some ..).2 (.inl ⟨h, rfl⟩)))

theorem execVex_of_ud {w VL : Nat} {x : Feature} {f : VexForm} {s : State} (h : vexUd s.cfg x f = true) :
    execVex w VL x f s = .fault .ud :=
  (execVex_eq_fault ..).2 (.inl ((udThenNm_eq_some ..).2 (.inl ⟨h, rfl⟩)))

section
variable {w VL : Nat} {bcst : Bool} {fs : List Feature} {f : EvexForm} {s : State}

theorem execEvex_of_ud (h : evexUd s.cfg bcst fs f = true) : execEvex w VL bcst fs f s = .fault .ud :=
  (execEvex_eq_fault ..).2 (.inl ((udThenNm_eq_some ..).2 (.inl ⟨h, rfl⟩)))

theorem execEvex_of_nm (h : evexUd s.cfg bcst fs f = false) (hts : s.cfg.env.cr0Ts = true) :
    execEvex w VL bcst fs f s = .fault .nm :=
  (execEvex_eq_fault ..).2 (.inl ((udThenNm_eq_some ..).2 (.inr ⟨h, hts, rfl⟩)))

end

/-! ### The EVEX forms (R222) -/

/-- An EVEX form raises `#UD` exactly for one of the conditions of R222. -/
theorem evexUd_eq_true (c : Config) (bcst : Bool) (fs : List Feature) (f : EvexForm) :
    evexUd c bcst fs f = true ↔
      ¬ EvexFieldsOk f ∨ BroadcastBad bcst f ∨ ¬ HasFeatures c fs ∨ ¬ EvexEnabled c.env := by
  rw [← Bool.not_eq_false, evexUd_eq_false]
  tauto

theorem execEvex_faults {w VL : Nat} {bcst : Bool} {fs : List Feature} {c : EvexForm → Instr}
    (hc : ∀ f s, exec (c f) s = execEvex w VL bcst fs f s) : EvexFaults c bcst fs := by
  intro s f
  refine ⟨fun hud => ?ud, fun hfields hb hfeatures henabled hts => ?nm⟩
  case ud =>
    rw [hc]
    exact execEvex_of_ud ((evexUd_eq_true ..).2 hud)
  case nm =>
    rw [hc]
    exact execEvex_of_nm ((evexUd_eq_false ..).2 ⟨hfields, hb, hfeatures, henabled⟩) hts

/-- Settles O32: each of the twelve forms is the shared meaning. -/
theorem evexFormsFault : Obligations.EvexFormsFault := by
  refine ⟨?_, ?_, ?_, ?_, ?_, ?_, ?_, ?_, ?_, ?_, ?_, ?_⟩ <;> exact execEvex_faults fun _ _ => rfl

/-! ### LOCK and stray prefixes (R121) -/

theorem strayBeforeVex_of_lock {p : Prefixes} (h : p.lock = true) : p.strayBeforeVex = true := by
  simp [Prefixes.strayBeforeVex, h]

theorem strayBeforeVex_of_stray {p : Prefixes}
    (h : p.opsize = true ∨ p.repne = true ∨ p.rep = true ∨ p.rex.isSome = true) : p.strayBeforeVex = true := by
  rcases h with h | h | h | h <;> simp [Prefixes.strayBeforeVex, h]

theorem mmxUd_of_lock {c : Config} {f : LegacyForm} (h : f.pfx.lock = true) : mmxUd c f = true := by
  simp [mmxUd, h]

theorem xmmUd_of_lock {c : Config} {f : LegacyForm} (h : f.pfx.lock = true) : xmmUd c f = true := by
  simp [xmmUd, h]

theorem vexUd_of_stray {c : Config} {x : Feature} {f : VexForm} (h : f.pfx.strayBeforeVex = true) :
    vexUd c x f = true := by
  simp [vexUd, h]

theorem evexUd_of_stray {c : Config} {bcst : Bool} {fs : List Feature} {f : EvexForm}
    (h : f.pfx.strayBeforeVex = true) : evexUd c bcst fs f = true := by
  simp [evexUd, evexReserved, h]

/-- A legacy form with LOCK is an invalid opcode. -/
theorem exec_legacy_of_lock {i : Instr} (hclass : encClass i = .legacy) (h : (prefixesOf i).lock = true)
    (s : State) : exec i s = .fault .ud := by
  cases i with
  | pabsbMm f | pabswMm f | pabsdMm f => exact execMmx_of_ud (mmxUd_of_lock h)
  | pabsbXmm f | pabswXmm f | pabsdXmm f => exact execXmm_of_ud (xmmUd_of_lock h)
  | _ => cases hclass

/-- A VEX or EVEX form with stray prefixes, LOCK among them, is an invalid opcode. -/
theorem exec_vex_of_stray {i : Instr} (hclass : encClass i ≠ .legacy) (h : (prefixesOf i).strayBeforeVex = true)
    (s : State) : exec i s = .fault .ud := by
  cases i with
  | pabsbMm f | pabswMm f | pabsdMm f | pabsbXmm f | pabswXmm f | pabsdXmm f => exact absurd rfl hclass
  | vpabsbVex128 f | vpabswVex128 f | vpabsdVex128 f | vpabsbVex256 f | vpabswVex256 f | vpabsdVex256 f =>
    exact execVex_of_ud (vexUd_of_stray h)
  | vpabsbEvex128 f | vpabsbEvex256 f | vpabsbEvex512 f | vpabswEvex128 f | vpabswEvex256 f | vpabswEvex512 f
  | vpabsdEvex128 f | vpabsdEvex256 f | vpabsdEvex512 f | vpabsqEvex128 f | vpabsqEvex256 f | vpabsqEvex512 f =>
    exact execEvex_of_ud (evexUd_of_stray h)

/-- Settles O37: LOCK is a condition of its own in the legacy class, and one of the stray prefixes in the others. -/
theorem lockAndStrayPrefixesAreInvalidOpcode : Obligations.LockAndStrayPrefixesAreInvalidOpcode := by
  refine fun i s => ⟨fun hlock => ?_, fun hclass h => exec_vex_of_stray hclass (strayBeforeVex_of_stray h) s⟩
  by_cases hclass : encClass i = .legacy
  · exact exec_legacy_of_lock hclass hlock s
  · exact exec_vex_of_stray hclass (strayBeforeVex_of_lock hlock) s

/-! ### Each VEX and EVEX form is the shared meaning of its class -/

theorem exec_vexForms :
    ∀ c ∈ [Instr.vpabsbVex128, .vpabswVex128, .vpabsdVex128, .vpabsbVex256, .vpabswVex256, .vpabsdVex256],
      ∃ w VL x, ∀ f s, exec (c f) s = execVex w VL x f s := by
  simp only [List.forall_mem_cons]
  exact ⟨⟨8, 128, .avx, fun _ _ => rfl⟩, ⟨16, 128, .avx, fun _ _ => rfl⟩, ⟨32, 128, .avx, fun _ _ => rfl⟩,
    ⟨8, 256, .avx2, fun _ _ => rfl⟩, ⟨16, 256, .avx2, fun _ _ => rfl⟩, ⟨32, 256, .avx2, fun _ _ => rfl⟩, nofun⟩

theorem exec_evexForms :
    ∀ c ∈ [Instr.vpabsbEvex128, .vpabsbEvex256, .vpabsbEvex512, .vpabswEvex128, .vpabswEvex256, .vpabswEvex512,
        .vpabsdEvex128, .vpabsdEvex256, .vpabsdEvex512, .vpabsqEvex128, .vpabsqEvex256, .vpabsqEvex512],
      ∃ w VL bcst fs, ∀ f s, exec (c f) s = execEvex w VL bcst fs f s := by
  simp only [List.forall_mem_cons]
  exact ⟨⟨8, 128, _, _, fun _ _ => rfl⟩, ⟨8, 256, _, _, fun _ _ => rfl⟩, ⟨8, 512, _, _, fun _ _ => rfl⟩,
    ⟨16, 128, _, _, fun _ _ => rfl⟩, ⟨16, 256, _, _, fun _ _ => rfl⟩, ⟨16, 512, _, _, fun _ _ => rfl⟩,
    ⟨32, 128, _, _, fun _ _ => rfl⟩, ⟨32, 256, _, _, fun _ _ => rfl⟩, ⟨32, 512, _, _, fun _ _ => rfl⟩,
    ⟨64, 128, _, _, fun _ _ => rfl⟩, ⟨64, 256, _, _, fun _ _ => rfl⟩, ⟨64, 512, _, _, fun _ _ => rfl⟩, nofun⟩

/-! ### `vvvv` (R117, R212) -/

theorem vexUd_of_vvvv {c : Config} {x : Feature} {f : VexForm} (h : f.vvvv ≠ 15#4) : vexUd c x f = true := by
  simp [vexUd, h]

theorem evexUd_of_vvvv {c : Config} {bcst : Bool} {fs : List Feature} {f : EvexForm} (h : f.vvvv ≠ 15#4) :
    evexUd c bcst fs f = true := by
  simp [evexUd, evexReserved, h]

/-- Settles O36: `vvvv` is among the `#UD` conditions of both classes. -/
theorem reservedVvvvIsInvalidOpcode : Obligations.ReservedVvvvIsInvalidOpcode := by
  refine fun s => ⟨fun c hmem f hvvvv => ?vex, fun c hmem f hvvvv => ?evex⟩
  case vex =>
    obtain ⟨w, VL, x, hc⟩ := exec_vexForms c hmem
    rw [hc]
    exact execVex_of_ud (vexUd_of_vvvv hvvvv)
  case evex =>
    obtain ⟨w, VL, bcst, fs, hc⟩ := exec_evexForms c hmem
    rw [hc]
    exact execEvex_of_ud (evexUd_of_vvvv hvvvv)

/-! ### W (R82, R83) -/

/-- No check, operand or length of a VEX form reads W. -/
theorem execVex_withW (w VL : Nat) (x : Feature) (f : VexForm) (b : Bool) (s : State) :
    execVex w VL x { f with w := b } s = execVex w VL x f s := rfl

/-- No check, operand or length of an EVEX form reads W, which selects the row (R88). -/
theorem execEvex_withW (w VL : Nat) (bcst : Bool) (fs : List Feature) (f : EvexForm) (b : Bool) (s : State) :
    execEvex w VL bcst fs { f with w := b } s = execEvex w VL bcst fs f s := rfl

/-- Settles O8: the shared meanings do not read W. -/
theorem wIsIgnoredWhereWIG : Obligations.WIsIgnoredWhereWIG := by
  refine fun s b => ⟨fun c hmem f => ?vex, fun c hmem f => ?evex⟩
  case vex =>
    obtain ⟨w, VL, x, hc⟩ := exec_vexForms c hmem
    rw [hc, hc, execVex_withW]
  case evex =>
    obtain ⟨w, VL, bcst, fs, hc⟩ := exec_evexForms c (List.mem_append_left _ hmem)
    rw [hc, hc, execEvex_withW]

end Sys2Proof.Machine
end

section
/-!
SUPPORT. Operands (`30_encoding.md` R102 to R112): register numbers, the base and index registers, the segment, the
displacement scale, and the effective address as an integer modulo `2^AS`.
-/
namespace Sys2Proof.Machine

/-! ### Register numbers (R108) -/

/-- Bits put in front of a field count with its weight. -/
theorem toNat_append_eq_add {m n : Nat} (x : BitVec m) (y : BitVec n) :
    (x ++ y).toNat = 2 ^ n * x.toNat + y.toNat := by
  rw [BitVec.toNat_append, ← Nat.shiftLeft_add_eq_or_of_lt y.isLt, Nat.shiftLeft_eq, Nat.mul_comm]

/-- A register number of two extension bits and a field. -/
theorem toNat_registerNumber (hi lo : Bool) (n : BitVec 3) :
    (BitVec.ofBool hi ++ BitVec.ofBool lo ++ n).toNat = 16 * hi.toNat + 8 * lo.toNat + n.toNat := by
  simp only [toNat_append_eq_add, BitVec.toNat_ofBool]
  omega

/-- A register number of one extension bit and a field. -/
theorem toNat_registerNumber_low (lo : Bool) (n : BitVec 3) :
    (0#1 ++ BitVec.ofBool lo ++ n).toNat = 8 * lo.toNat + n.toNat := by
  simpa using toNat_registerNumber false lo n

/-- Settles O9: every number is an append of its bits. -/
theorem registerNumbers : Obligations.RegisterNumbers := by
  refine ⟨fun f rm => ?legacy, fun f rm => ⟨toNat_registerNumber_low .., toNat_registerNumber_low ..⟩,
    fun f rm => ⟨toNat_registerNumber .., toNat_registerNumber ..⟩⟩
  case legacy =>
    rw [legacyDst, legacySrc, toNat_registerNumber_low, toNat_registerNumber_low, legacyR, legacyB]
    cases f.pfx.rex <;> exact ⟨rfl, rfl⟩

/-! ### Base and index registers (R103, R104) -/

/-- The number 0100b is that of the index field 100b without X. -/
theorem gprIndex_eq_four (x : Bool) (i : BitVec 3) : gprIndex x i = 4#4 ↔ x = false ∧ i = 4#3 := by
  revert x i
  decide

theorem sibIndex_of_four {x : Bool} {i : BitVec 3} (h : x = false ∧ i = 4#3) : sibIndex x i = none :=
  if_pos ((gprIndex_eq_four x i).2 h)

theorem sibIndex_of_ne_four {x : Bool} {i : BitVec 3} (h : ¬ (x = false ∧ i = 4#3)) :
    sibIndex x i = some (gprIndex x i) := if_neg (mt (gprIndex_eq_four x i).1 h)

/-- A SIB byte with base 101b and `mod` 00b: no base register, and four displacement bytes. -/
theorem takeSib_noBase {sb : Byte} (h : sb.extractLsb' 0 3 = 5#3) (b0 b1 b2 b3 : Byte) (bs : List Byte) :
    takeSib 0#2 (sb :: b0 :: b1 :: b2 :: b3 :: bs) =
      some (.sibNoBase (sb.extractLsb' 6 2) (sb.extractLsb' 3 3) (b3 ++ b2 ++ b1 ++ b0), bs) := by
  rw [takeSib, if_pos ⟨rfl, h⟩, takeDisp32, Option.map_some]

/-- Settles O11: the index of a SIB byte is the one register number with an exception. -/
theorem indexAndBaseRegisters : Obligations.IndexAndBaseRegisters := by
  refine ⟨fun _ _ _ => rfl, fun _ _ _ => rfl, fun _ _ _ => ⟨rfl, rfl⟩, fun b x sc i r d v => ?_,
    fun sb b0 b1 b2 b3 bs h => takeSib_noBase h b0 b1 b2 b3 bs⟩
  exact ⟨rfl, rfl, fun h => ⟨sibIndex_of_four h, sibIndex_of_four h⟩,
    fun h => ⟨sibIndex_of_ne_four h, sibIndex_of_ne_four h⟩, rfl, rfl⟩

/-! ### The segment (R107) -/

theorem segmentOf_of_override {p : Prefixes} {g : Seg} (h : p.seg = some g) (b : Bool) (m : MemRef) :
    segmentOf p b m = g := by rw [segmentOf, h]

theorem segmentOf_of_none {p : Prefixes} (h : p.seg = none) (b : Bool) (m : MemRef) :
    segmentOf p b m = if baseReg b m = some 4#4 ∨ baseReg b m = some 5#4 then .ss else .ds := by rw [segmentOf, h]

/-- Only FS and GS override a segment in 64-bit mode. -/
theorem decode_nullSegmentOverride {g : Seg} (hfs : g ≠ .fs) (hgs : g ≠ .gs) (bs : List Byte) :
    decode .mode64 (segCode g :: bs) = .rejected .nullSegmentOverride := by
  have hadd : addPrefix .mode64 {} (.seg g) = .error .nullSegmentOverride := by
    simp [addPrefix, hfs, hgs]
  simp only [decode, scanPrefixes, pfxByte_segCode, hadd]

/-- Settles O12: the override, or the segment that the base register names. -/
theorem segmentOfAMemoryOperand : Obligations.SegmentOfAMemoryOperand := by
  refine fun p b m => ⟨fun g h => segmentOf_of_override h b m, fun h => ?stack, fun h hss => ?data,
    fun g bs hfs hgs => decode_nullSegmentOverride hfs hgs bs⟩
  case stack =>
    rw [segmentOf_of_none h]
    split_ifs with hbase <;> simp [hbase]
  case data =>
    rw [segmentOf_of_none h] at hss ⊢
    exact if_neg fun hbase => hss (if_pos hbase)

/-! ### The displacement (R112) -/

/-- A `disp8` counts as the signed byte times the scale. -/
theorem dispValue_d8 (n : Nat) (v : BitVec 8) : dispValue n (.d8 v) = BitVec.ofInt 64 (v.toInt * n) := by
  rw [BitVec.ofInt_mul, BitVec.ofInt_natCast]
  rfl

/-- A `disp32` counts as the signed number itself. -/
theorem dispValue_d32 (n : Nat) (v : BitVec 32) : dispValue n (.d32 v) = BitVec.ofInt 64 v.toInt := rfl

/-- Settles O13: the scale by its two cases, the displacements as integers, and the address of each class. -/
theorem displacementScale : Obligations.DisplacementScale :=
  ⟨fun _ _ => rfl, fun _ => rfl, fun _ => rfl, dispValue_d8, dispValue_d32, fun _ _ _ => rfl, fun _ _ _ => rfl,
    fun _ _ _ _ _ => rfl⟩

/-! ### The effective address (R106) -/

/-- The low `as` bits of a word are those of an integer. -/
def Denotes (as : Nat) (v : BitVec 64) (z : Int) : Prop := (v.toNat : Int) ≡ z [ZMOD 2 ^ as]

section
variable {as : Nat} {v u : BitVec 64} {z y : Int}

/-- Cutting to the address size leaves the integer modulo `2^AS`. -/
theorem Denotes.toNat_truncAS (has : as ≤ 64) (h : Denotes as v z) :
    ((truncAS as v).toNat : Int) = z % 2 ^ as := by
  have hle : 2 ^ as ≤ 2 ^ 64 := Nat.pow_le_pow_right (by decide) has
  have hlt : v.toNat % 2 ^ as < 2 ^ 64 := (Nat.mod_lt _ (Nat.two_pow_pos as)).trans_le hle
  rw [truncAS, BitVec.toNat_setWidth, BitVec.toNat_setWidth, Nat.mod_eq_of_lt hlt]
  push_cast
  exact h

/-- Congruence modulo `2^64` is enough. -/
theorem denotes_of_modEq (has : as ≤ 64) (h : (v.toNat : Int) ≡ z [ZMOD 2 ^ 64]) : Denotes as v z :=
  h.of_dvd (pow_dvd_pow 2 has)

theorem denotes_toNat (as : Nat) (v : BitVec 64) : Denotes as v v.toNat := Int.ModEq.refl _

theorem denotes_ofInt (has : as ≤ 64) (z : Int) : Denotes as (BitVec.ofInt 64 z) z := by
  refine denotes_of_modEq has ?_
  rw [BitVec.toNat_ofInt, Int.toNat_of_nonneg (Int.emod_nonneg _ (by decide))]
  exact Int.mod_modEq z _

theorem denotes_ofNat (has : as ≤ 64) (n : Nat) : Denotes as (BitVec.ofNat 64 n) n := by
  rw [← BitVec.ofInt_natCast]
  exact denotes_ofInt has n

theorem Denotes.add (has : as ≤ 64) (hv : Denotes as v z) (hu : Denotes as u y) : Denotes as (v + u) (z + y) := by
  refine Int.ModEq.trans (denotes_of_modEq has ?_) (Int.ModEq.add hv hu)
  rw [BitVec.toNat_add]
  push_cast
  exact Int.mod_modEq _ _

theorem Denotes.shiftLeft (has : as ≤ 64) (hv : Denotes as v z) (k : Nat) : Denotes as (v <<< k) (z * 2 ^ k) := by
  refine Int.ModEq.trans (denotes_of_modEq has ?_) (Int.ModEq.mul_right (2 ^ k) hv)
  rw [BitVec.toNat_shiftLeft, Nat.shiftLeft_eq]
  push_cast
  exact Int.mod_modEq _ _

theorem Denotes.trunc (has : as ≤ 64) (hv : Denotes as v z) : Denotes as (truncAS as v) z := by
  rw [Denotes, hv.toNat_truncAS has]
  exact Int.mod_modEq _ _

end

/-- The integer a register that may be absent counts for. -/
def regInt (s : State) : Option (BitVec 4) → Int
  | some r => (s.gprReg r).toNat
  | none   => 0

theorem addrReg_denotes {as : Nat} (has : as ≤ 64) (s : State) (r : Option (BitVec 4)) :
    Denotes as (addrReg s as r) (regInt s r) := by
  cases r with
  | none => exact denotes_ofInt has 0
  | some r => exact (denotes_toNat as (s.gprReg r)).trunc has

/-- The integer a displacement counts for, with the scale `n` of a `disp8`. -/
def dispValueInt (n : Nat) : Disp → Int
  | .d0    => 0
  | .d8 v  => v.toInt * n
  | .d32 v => v.toInt

theorem dispValue_denotes {as : Nat} (has : as ≤ 64) (n : Nat) (d : Disp) :
    Denotes as (dispValue n d) (dispValueInt n d) := by
  cases d with
  | d0 => exact denotes_ofInt has 0
  | d8 v =>
    rw [dispValue_d8]
    exact denotes_ofInt has _
  | d32 v => exact denotes_ofInt has _

/-- The integer the displacement of an addressing form counts for. -/
def dispOfInt (n : Nat) : MemRef → Int
  | .base _ d        => dispValueInt n d
  | .dispOnly v      => v.toInt
  | .sib _ _ _ d     => dispValueInt n d
  | .sibNoBase _ _ v => v.toInt

theorem dispOf_denotes {as : Nat} (has : as ≤ 64) (n : Nat) (m : MemRef) :
    Denotes as (dispOf n m) (dispOfInt n m) := by
  cases m with
  | base rm d => exact dispValue_denotes has n d
  | dispOnly v => exact denotes_ofInt has _
  | sib sc i r d => exact dispValue_denotes has n d
  | sibNoBase sc i v => exact denotes_ofInt has _

theorem addressSize_eq (mode : Mode) (p : Prefixes) :
    addressSize mode p = if mode = .mode64 ∧ p.addr32 = false then 64 else 32 := by
  cases mode <;> cases h : p.addr32 <;> simp [addressSize, h]

theorem addressSize_le (mode : Mode) (p : Prefixes) : addressSize mode p ≤ 64 := by
  rw [addressSize_eq]
  split_ifs <;> decide

section
variable (s : State) (p : Prefixes) (x b : Bool) (len n : Nat)

/-- The RIP-relative form of 64-bit mode. -/
theorem effectiveAddress_rip (hmode : s.cfg.mode = .mode64) (d : BitVec 32) :
    effectiveAddress s p x b len n (.dispOnly d) =
      truncAS (addressSize s.cfg.mode p) (s.rip + BitVec.ofNat 64 len + d.signExtend 64) := by
  simp only [effectiveAddress, hmode]

/-- Every other form. -/
theorem effectiveAddress_sum {m : MemRef} (h : ¬ (s.cfg.mode = .mode64 ∧ ∃ d, m = .dispOnly d)) :
    effectiveAddress s p x b len n m =
      truncAS (addressSize s.cfg.mode p)
        (addrReg s (addressSize s.cfg.mode p) (baseReg b m) +
          addrReg s (addressSize s.cfg.mode p) (indexReg x m) <<< (scaleOf m).toNat + dispOf n m) := by
  unfold effectiveAddress
  split
  next d hmode => exact absurd ⟨hmode, d, rfl⟩ h
  · rfl

/-- The sum of R106 as an integer. -/
theorem toNat_effectiveAddress_sum {m : MemRef} (h : ¬ (s.cfg.mode = .mode64 ∧ ∃ d, m = .dispOnly d)) :
    ((effectiveAddress s p x b len n m).toNat : Int) =
      (regInt s (baseReg b m) + regInt s (indexReg x m) * 2 ^ (scaleOf m).toNat + dispOfInt n m) %
        2 ^ addressSize s.cfg.mode p := by
  have has := addressSize_le s.cfg.mode p
  have hbase := addrReg_denotes has s (baseReg b m)
  have hindex := (addrReg_denotes has s (indexReg x m)).shiftLeft has (scaleOf m).toNat
  rw [effectiveAddress_sum s p x b len n h]
  exact ((hbase.add has hindex).add has (dispOf_denotes has n m)).toNat_truncAS has

/-- The sum of R106 for the RIP-relative form as an integer. -/
theorem toNat_effectiveAddress_rip (hmode : s.cfg.mode = .mode64) (d : BitVec 32) :
    ((effectiveAddress s p x b len n (.dispOnly d)).toNat : Int) =
      ((s.rip.toNat : Int) + len + d.toInt) % 2 ^ addressSize s.cfg.mode p := by
  have has := addressSize_le s.cfg.mode p
  have hnext := (denotes_toNat _ s.rip).add has (denotes_ofNat has len)
  rw [effectiveAddress_rip s p x b len n hmode]
  exact (hnext.add has (denotes_ofInt has d.toInt)).toNat_truncAS has

end

/-- Settles O10: each part of the sum denotes its integer modulo `2^AS`, and the sum is cut last. -/
theorem effectiveAddressFormula : Obligations.EffectiveAddressFormula := by
  refine fun s p x b len n m => ⟨addressSize_eq .., fun d hmode hm => ?rip, fun h => ?sum⟩
  case rip =>
    subst hm
    exact toNat_effectiveAddress_rip s p x b len n hmode d
  case sum =>
    rw [toNat_effectiveAddress_sum s p x b len n h]
    cases m with
    | base rm d => cases d <;> rfl
    | dispOnly v => rfl
    | sib sc i r d => cases d <;> rfl
    | sibNoBase sc i v => rfl

end Sys2Proof.Machine
end

section
/-!
SUPPORT. `ABS` and `PackedAbs` (`40_pabs_legacy.md` R140, R141), and the completion of the six legacy forms on a
register source and on a memory source (R143 to R148).
-/
namespace Sys2Proof.Machine
open Sys2Proof.Safety

/-! ### `ABS_w` is the absolute value of two's complement (R140) -/

theorem absW_eq_abs {w : Nat} (v : BitVec w) : absW w v = v.abs := rfl

theorem absW_of_msb_false {w : Nat} {v : BitVec w} (h : v.msb = false) : absW w v = v := by
  rw [absW_eq_abs, BitVec.abs_eq, h, if_neg Bool.false_ne_true]

theorem absW_of_msb_true {w : Nat} {v : BitVec w} (h : v.msb = true) : absW w v = -v := by
  rw [absW_eq_abs, BitVec.abs_eq, if_pos h]

/-- The most negative pattern is its own magnitude, which `w` bits cannot hold as a signed value. -/
theorem absW_intMin (w : Nat) : absW w (BitVec.intMin w) = BitVec.intMin w := BitVec.abs_intMin

theorem ofNat_two_pow_eq_intMin (w : Nat) : BitVec.ofNat w (2 ^ (w - 1)) = BitVec.intMin w :=
  BitVec.eq_of_toNat_eq (by rw [BitVec.toNat_ofNat, BitVec.toNat_intMin])

/-- Only the most negative pattern has a magnitude with the sign bit set, and it maps to itself. -/
theorem absW_absW {w : Nat} (v : BitVec w) : absW w (absW w v) = absW w v := by
  by_cases hmin : v = BitVec.intMin w
  · rw [hmin, absW_intMin, absW_intMin]
  · exact absW_of_msb_false (by rw [absW_eq_abs, BitVec.msb_abs, decide_eq_false hmin, Bool.false_and])

/-- With the sign bit set, negation is complement plus one; without it the mask of sign bits changes nothing. -/
theorem absW_eq_xor_sub {w : Nat} (v : BitVec w) :
    absW w v = (v ^^^ (if v.msb then BitVec.allOnes w else 0)) - (if v.msb then BitVec.allOnes w else 0) := by
  cases hsign : v.msb with
  | false => simp [absW_of_msb_false hsign]
  | true =>
    rw [absW_of_msb_true hsign, if_pos rfl, BitVec.xor_allOnes, ← BitVec.neg_one_eq_allOnes, sub_neg_eq_add,
      BitVec.neg_eq_not_add]

/-- Settles O17: each case holds at every width. -/
theorem absCornerCases : Obligations.AbsCornerCases := by
  intro w _
  refine ⟨?_, absW_of_msb_false BitVec.msb_zero, absW_absW, absW_eq_xor_sub⟩
  rw [ofNat_two_pow_eq_intMin, absW_intMin]

/-! ### `PackedAbs`, lane by lane (R141) -/

theorem lanesAbs_packedAbs (w L : Nat) (src : BitVec L) : LanesAbs w (L / w) src (packedAbs w L src) := fun j hj => by
  rw [lane_packedAbs w L src j hj, absW_toNat]

/-- Settles O18: lane `j` of the result is a function of lane `j` of the source. -/
theorem packedAbsLaneByLane : Obligations.PackedAbsLaneByLane := by
  intro w hw n src src' j hj
  have hpos : 0 < w := Nat.pos_of_ne_zero fun h => absurd (h ▸ hw) (by decide)
  have hlane : j < w * n / w := by rwa [Nat.mul_div_cancel_left n hpos]
  refine ⟨lanesAbs_packedAbs w _ src j hlane, fun hagree => ?_⟩
  rw [lane_packedAbs w _ src j hlane, lane_packedAbs w _ src' j hlane, hagree]

/-! ### The source of a legacy form -/

section
variable {s : State} {f : LegacyForm}

theorem mmxSource_reg {rm : BitVec 3} (hrm : f.rm = .reg rm) : mmxSource s f = .ok (s.mmReg rm) := by
  rw [mmxSource, hrm]

theorem xmmSource_reg {rm : BitVec 3} (hrm : f.rm = .reg rm) :
    xmmSource s f = .ok ((s.zmmReg (legacySrc f rm)).setWidth 128) := by
  rw [xmmSource, hrm]

/-- An operand that can be read is read: range, `Access`, the alignment check and ordinary memory are all that R55 and
R60 ask where no alignment is required. -/
theorem mmxSource_mem {m : MemRef} (hrm : f.rm = .mem m) (h : OperandOk s.cfg (legacyAddress s f m) 8 .mmx) :
    mmxSource s f = .ok (loadLE 64 s.mem (legacyAddress s f m)) := by
  obtain ⟨⟨⟨hrange, haccess⟩, hordinary⟩, hac⟩ := h
  rw [mmxSource, hrm]
  exact (memRead_eq_ok ..).2 ⟨hrange, nofun, haccess, hac, hordinary, rfl⟩

/-- R57: an operand at a multiple of its size raises no alignment check, under any policy. -/
theorem alignCheck_vector_of_aligned {c : Config} {lin n : Nat} (h : lin % n = 0) :
    alignCheck c .vector lin n = false := by
  cases hpolicy : c.acPolicy <;> simp [alignCheck, hpolicy, h]

theorem xmmSource_mem {m : MemRef} (hrm : f.rm = .mem m) (h : Readable s.cfg (legacyAddress s f m) 16)
    (haligned : Aligned16 (legacyAddress s f m)) :
    xmmSource s f = .ok (loadLE 128 s.mem (legacyAddress s f m)) := by
  obtain ⟨⟨hrange, haccess⟩, hordinary⟩ := h
  rw [xmmSource, hrm]
  exact (memRead_eq_ok ..).2
    ⟨hrange, fun _ => haligned, haccess, alignCheck_vector_of_aligned haligned, hordinary, rfl⟩

end

/-! ### A legacy form that is ready and has its source completes with its effect -/

theorem execMmx_completes {w : Nat} {f : LegacyForm} {s : State} {src : BitVec 64} (hready : MmxReady s.cfg f)
    (hsource : mmxSource s f = .ok src) : ∃ t, execMmx w f s = .next t ∧ MmxEffect w f src s t := by
  refine ⟨_, (execMmx_eq_next ..).2 ⟨(mmxChecks_eq_none ..).2 hready, src, hsource, rfl⟩, ?_, rfl,
    onlyMm_setMm_advance ..⟩
  rw [State.mmReg_advance, State.mmReg_setMm_self]
  exact lanesAbs_packedAbs w 64 src

/-- A field within the low 128 bits of `keepUpper` is the new value's. -/
theorem extractLsb'_keepUpper (old : BitVec 512) (low : BitVec 128) {start len : Nat} (h : start + len ≤ 128) :
    (keepUpper old low).extractLsb' start len = low.extractLsb' start len := by
  refine BitVec.eq_of_getLsbD_eq fun i hi => ?_
  rw [BitVec.getLsbD_extractLsb', BitVec.getLsbD_extractLsb', getLsbD_keepUpper, if_pos (by omega)]

theorem lanesAbs_keepUpper {L w n : Nat} {src : BitVec L} {low : BitVec 128} (hfit : w * n ≤ 128)
    (h : LanesAbs w n src low) (old : BitVec 512) : LanesAbs w n src (keepUpper old low) := fun j hj => by
  have hlane : w * (j + 1) ≤ w * n := Nat.mul_le_mul_left w hj
  rw [extractLsb'_keepUpper old low (by rw [← Nat.mul_succ]; exact hlane.trans hfit)]
  exact h j hj

theorem execXmm_completes {w : Nat} {f : LegacyForm} {s : State} {src : BitVec 128} (hready : XmmReady s.cfg f)
    (hsource : xmmSource s f = .ok src) : ∃ t, execXmm w f s = .next t ∧ XmmEffect w f src s t := by
  refine ⟨_, (execXmm_eq_next ..).2 ⟨(xmmChecks_eq_none ..).2 hready, src, hsource, rfl⟩, ?lanes, ?upper, rfl,
    onlyZmm_setZmm_advance ..⟩ <;> rw [State.zmmReg_advance, State.zmmReg_setZmm_self]
  case lanes => exact lanesAbs_keepUpper (Nat.mul_div_le 128 w) (lanesAbs_packedAbs w 128 src) _
  case upper =>
    intro i hi
    rw [getLsbD_keepUpper, if_neg (by omega)]

/-! ### The six forms -/

section
variable {w : Nat} {c : LegacyForm → Instr}

theorem mmxRegRuns (hc : ∀ f s, exec (c f) s = execMmx w f s) : MmxRegRuns c w := by
  intro s f rm hrm hready
  rw [hc]
  exact execMmx_completes hready (mmxSource_reg hrm)

theorem mmxMemRuns (hc : ∀ f s, exec (c f) s = execMmx w f s) : MmxMemRuns c w := by
  intro s f m hrm hready hoperand
  rw [hc]
  exact execMmx_completes hready (mmxSource_mem hrm hoperand)

theorem xmmRegRuns (hc : ∀ f s, exec (c f) s = execXmm w f s) : XmmRegRuns c w := by
  intro s f rm hrm hready
  rw [hc]
  exact execXmm_completes hready (xmmSource_reg hrm)

theorem xmmMemRuns (hc : ∀ f s, exec (c f) s = execXmm w f s) : XmmMemRuns c w := by
  intro s f m hrm hready hreadable haligned
  rw [hc]
  exact execXmm_completes hready (xmmSource_mem hrm hreadable haligned)

end

/-- Settles O19: each form is the shared MMX meaning at its width. -/
theorem mmxFormsRegister : Obligations.MmxFormsRegister :=
  ⟨mmxRegRuns fun _ _ => rfl, mmxRegRuns fun _ _ => rfl, mmxRegRuns fun _ _ => rfl⟩

/-- Settles O20: each form is the shared MMX meaning at its width. -/
theorem mmxFormsMemory : Obligations.MmxFormsMemory :=
  ⟨mmxMemRuns fun _ _ => rfl, mmxMemRuns fun _ _ => rfl, mmxMemRuns fun _ _ => rfl⟩

/-- Settles O21: each form is the shared legacy xmm meaning at its width. -/
theorem xmmFormsRegister : Obligations.XmmFormsRegister :=
  ⟨xmmRegRuns fun _ _ => rfl, xmmRegRuns fun _ _ => rfl, xmmRegRuns fun _ _ => rfl⟩

/-- Settles O22: each form is the shared legacy xmm meaning at its width. -/
theorem xmmFormsMemory : Obligations.XmmFormsMemory :=
  ⟨xmmMemRuns fun _ _ => rfl, xmmMemRuns fun _ _ => rfl, xmmMemRuns fun _ _ => rfl⟩

end Sys2Proof.Machine
end

section
/-!
SUPPORT. The completion of the six VEX forms on a register source and on a memory source (`41_vpabs_vex.md` R160 to
R166): the result is zero-extended from the vector length to the whole register.
-/
namespace Sys2Proof.Machine
open Sys2Proof.Safety

/-! ### The source of a VEX form -/

section
variable {VL : Nat} {s : State} {f : VexForm}

theorem vexSource_reg {rm : BitVec 3} (hrm : f.rm = .reg rm) :
    vexSource VL s f = .ok ((s.zmmReg (vexSrc f rm)).setWidth VL) := by
  rw [vexSource, hrm]

/-- R56: a VEX operand needs no alignment of its own, so range, `Access`, the alignment check and ordinary memory are
all that stand between it and the read. -/
theorem vexSource_mem {m : MemRef} (hrm : f.rm = .mem m)
    (h : OperandOk s.cfg (vexAddress s f m) (VL / 8) .vector) :
    vexSource VL s f = .ok (loadLE VL s.mem (vexAddress s f m)) := by
  obtain ⟨⟨⟨hrange, haccess⟩, hordinary⟩, hac⟩ := h
  rw [vexSource, hrm]
  exact (memRead_eq_ok ..).2 ⟨hrange, nofun, haccess, hac, hordinary, rfl⟩

end

/-! ### A value zero-extended to the whole register (R160) -/

/-- Zero extension keeps the lanes, as far as they fit the register. -/
theorem lanesAbs_setWidth {L K R w n : Nat} {src : BitVec L} {v : BitVec K} (hfit : w * n ≤ R)
    (h : LanesAbs w n src v) : LanesAbs w n src (v.setWidth R) := fun j hj => by
  have hlane : w * j + w ≤ R := (Nat.mul_succ w j ▸ Nat.mul_le_mul_left w hj).trans hfit
  rw [BitVec.extractLsb'_setWidth_of_le hlane]
  exact h j hj

/-- Zero extension adds zeros from the old width up. -/
theorem getLsbD_setWidth_of_ge {K R : Nat} (v : BitVec K) {i : Nat} (hi : K ≤ i) :
    (v.setWidth R).getLsbD i = false := by
  rw [BitVec.getLsbD_setWidth, BitVec.getLsbD_of_ge v i hi, Bool.and_false]

/-! ### A VEX form that is ready and has its source completes with its effect -/

theorem execVex_completes {w VL : Nat} {x : Feature} {f : VexForm} {s : State} {src : BitVec VL} (hVL : VL ≤ 512)
    (hready : VexReady s.cfg x f) (hsource : vexSource VL s f = .ok src) :
    ∃ t, execVex w VL x f s = .next t ∧ VexEffect w VL f src s t := by
  refine ⟨_, (execVex_eq_next ..).2 ⟨(vexChecks_eq_none ..).2 hready, src, hsource, rfl⟩, ?lanes, ?upper, rfl,
    onlyZmm_setZmm_advance ..⟩ <;> rw [State.zmmReg_advance, State.zmmReg_setZmm_self]
  case lanes => exact lanesAbs_setWidth ((Nat.mul_div_le VL w).trans hVL) (lanesAbs_packedAbs w VL src)
  case upper => exact fun _ => getLsbD_setWidth_of_ge _

/-! ### The six forms -/

section
variable {w VL : Nat} {x : Feature} {c : VexForm → Instr}

theorem vexRegRuns (hVL : VL ≤ 512) (hc : ∀ f s, exec (c f) s = execVex w VL x f s) : VexRegRuns c w VL x := by
  intro s f rm hrm hready
  rw [hc]
  exact execVex_completes hVL hready (vexSource_reg hrm)

theorem vexMemRuns (hVL : VL ≤ 512) (hc : ∀ f s, exec (c f) s = execVex w VL x f s) : VexMemRuns c w VL x := by
  intro s f m hrm hready hoperand
  rw [hc]
  exact execVex_completes hVL hready (vexSource_mem hrm hoperand)

end

/-- Settles O23: each form is the shared VEX meaning at its widths, and the vector fits its register. -/
theorem vexFormsRegister : Obligations.VexFormsRegister := by
  refine ⟨?_, ?_, ?_, ?_, ?_, ?_⟩ <;> exact vexRegRuns (by decide) fun _ _ => rfl

/-- Settles O24: each form is the shared VEX meaning at its widths, and the vector fits its register. -/
theorem vexFormsMemory : Obligations.VexFormsMemory := by
  refine ⟨?_, ?_, ?_, ?_, ?_, ?_⟩ <;> exact vexMemRuns (by decide) fun _ _ => rfl

end Sys2Proof.Machine
end

section
/-!
SUPPORT. The completion of the twelve EVEX forms (`42_vpabs_evex.md` R180 to R196) on a register source, on a full-width
memory source and on an embedded broadcast: what is read decides the source vector, and one lemma turns a source vector
into the masked effect.
-/
namespace Sys2Proof.Machine
open Sys2Proof.Safety

/-! ### The source of an EVEX form (R182) -/

/-- Where no alignment of its own is required, an operand that can be read is read (R55, R56, R60). -/
theorem memRead_of_operandOk {s : State} {seg : Seg} {lin L : Nat} {shape : AcShape}
    (h : OperandOk s.cfg lin (L / 8) shape) : memRead s seg lin L false shape = .ok (loadLE L s.mem lin) := by
  obtain ⟨⟨⟨hrange, haccess⟩, hordinary⟩, hac⟩ := h
  exact (memRead_eq_ok ..).2 ⟨hrange, nofun, haccess, hac, hordinary, rfl⟩

section
variable {w VL : Nat} {s : State} {f : EvexForm}

theorem evexSource_reg {rm : BitVec 3} (hrm : f.rm = .reg rm) :
    evexSource w VL s f = .ok ((s.zmmReg (evexSrc f rm)).setWidth VL) := by
  rw [evexSource, hrm]

theorem evexSource_mem {m : MemRef} (hrm : f.rm = .mem m) (hb : f.b = false)
    (hmask : s.cfg.suppress = false ∨ f.aaa = 0#3)
    (h : OperandOk s.cfg (evexAddress w VL s f m) (VL / 8) .vector) :
    evexSource w VL s f = .ok (loadLE VL s.mem (evexAddress w VL s f m)) := by
  rw [evexSource_whole hrm hb hmask, memRead_of_operandOk h]

/-- The one element of a broadcast is read, unless suppression finds no mask bit that asks for it. -/
theorem evexSource_of_broadcastOk {m : MemRef} (hrm : f.rm = .mem m) (hb : f.b = true)
    (hread : s.cfg.suppress = false ∨ ∃ j < VL / w, (writeMask s f).getLsbD j = true)
    (h : OperandOk s.cfg (evexAddress w VL s f m) (w / 8) .broadcast) :
    evexSource w VL s f = .ok (broadcast w VL (loadLE w s.mem (evexAddress w VL s f m))) := by
  rw [evexSource_broadcast hrm hb hread, memRead_of_operandOk h]
  rfl

/-- R236: with suppression and no mask bit set a broadcast reads nothing, and so cannot fault. -/
theorem evexSource_broadcast_of_empty {m : MemRef} (hrm : f.rm = .mem m) (hb : f.b = true)
    (hs : s.cfg.suppress = true) (hempty : ∀ j < VL / w, (writeMask s f).getLsbD j = false) :
    evexSource w VL s f = .ok 0 := by
  have hnone : activeElements (writeMask s f) (VL / w) = [] :=
    List.eq_nil_iff_forall_not_mem.2 fun j hj => by
      obtain ⟨hlt, hbit⟩ := (mem_activeElements ..).1 hj
      exact Bool.false_ne_true ((hempty j hlt).symm.trans hbit)
  simp [evexSource, evexMemSource, hrm, hb, hs, hnone]

end

theorem lane_broadcast (w VL : Nat) (e : BitVec w) {j : Nat} (hj : j < VL / w) :
    (broadcast w VL e).extractLsb' (w * j) w = e :=
  lane_packLanes w VL _ _ j hj (Nat.mul_div_le VL w)

/-! ### An EVEX form that is ready and has its source completes with its effect -/

/-- A lane of a vector ends within the vector. -/
theorem lane_end_le {w VL j : Nat} (hj : j < VL / w) : w * j + w ≤ VL :=
  (Nat.mul_succ w j ▸ Nat.mul_le_mul_left w hj).trans (Nat.mul_div_le VL w)

/-- Lane `j` of what an EVEX form writes to the whole register whose old value is `old` (R184). -/
theorem lane_evexResult {w VL : Nat} (hVL : VL ≤ 512) (src : BitVec VL) (mask : BitVec 64) (z : Bool)
    (old : BitVec 512) {j : Nat} (hj : j < VL / w) :
    ((maskedAbs w VL src mask z (old.setWidth VL)).setWidth 512).extractLsb' (w * j) w =
      maskedLane w (src.extractLsb' (w * j) w) (old.extractLsb' (w * j) w) (mask.getLsbD j) z := by
  rw [BitVec.extractLsb'_setWidth_of_le ((lane_end_le hj).trans hVL), lane_maskedAbs w VL _ _ _ _ j hj,
    BitVec.extractLsb'_setWidth_of_le (lane_end_le hj)]

theorem not_broadcastBad_of_b_false {bcst : Bool} {f : EvexForm} (hb : f.b = false) : ¬ BroadcastBad bcst f :=
  fun ⟨h, _⟩ => Bool.false_ne_true (hb.symm.trans h)

/-- The source elements matter only where the mask bit is 1: `elem` need not describe the others, which a read with
fault suppression leaves out. -/
theorem execEvex_completes {w VL : Nat} {bcst : Bool} {fs : List Feature} {f : EvexForm} {s : State}
    {src : BitVec VL} {elem : Nat → BitVec w} (hVL : VL ≤ 512) (hlanes : VL / w ≤ 64)
    (hready : EvexReady s.cfg fs f) (hb : ¬ BroadcastBad bcst f) (hsource : evexSource w VL s f = .ok src)
    (helem : ∀ j < VL / w, MaskBit s f j → src.extractLsb' (w * j) w = elem j) :
    ∃ t, execEvex w VL bcst fs f s = .next t ∧ EvexEffect w VL f elem s t := by
  refine ⟨_, (execEvex_eq_next ..).2 ⟨(evexChecks_eq_none ..).2 ⟨hready, hb⟩, src, hsource, rfl⟩, fun j hj => ?lanes,
    ?upper, rfl, onlyZmm_setZmm_advance ..⟩ <;> rw [State.zmmReg_advance, State.zmmReg_setZmm_self]
  case lanes =>
    rw [lane_evexResult hVL _ _ _ _ hj]
    have hbit := getLsbD_writeMask s f j (hj.trans_le hlanes)
    have masked : ¬ MaskBit s f j → (writeMask s f).getLsbD j = false := fun h =>
      Bool.eq_false_of_not_eq_true (mt hbit.1 h)
    refine ⟨fun hset => ?_, fun hclear hz => ?_, fun hclear hz => ?_⟩
    · rw [hbit.2 hset, maskedLane_one, absW_toNat, helem j hj hset]
    · rw [masked hclear, hz, maskedLane_merge]
    · rw [masked hclear, hz, maskedLane_zero]
  case upper => exact fun _ => getLsbD_setWidth_of_ge _

/-! ### The twelve forms -/

section
variable {w VL : Nat} {bcst : Bool} {fs : List Feature} {c : EvexForm → Instr}

theorem evexRegRuns (hVL : VL ≤ 512) (hlanes : VL / w ≤ 64)
    (hc : ∀ f s, exec (c f) s = execEvex w VL bcst fs f s) : EvexRegRuns c w VL fs := by
  intro s f rm hrm hb hready
  rw [hc]
  exact execEvex_completes hVL hlanes hready (not_broadcastBad_of_b_false hb) (evexSource_reg hrm)
    fun j hj _ => BitVec.extractLsb'_setWidth_of_le (lane_end_le hj)

theorem evexMemRuns (hVL : VL ≤ 512) (hlanes : VL / w ≤ 64)
    (hc : ∀ f s, exec (c f) s = execEvex w VL bcst fs f s) : EvexMemRuns c w VL fs := by
  intro s f m hrm hb hready hmask hoperand
  rw [hc]
  exact execEvex_completes hVL hlanes hready (not_broadcastBad_of_b_false hb)
    (evexSource_mem hrm hb hmask hoperand) fun _ _ _ => rfl

/-- A broadcast that reads has a mask bit set or no suppression; one that reads nothing has no mask bit set, so no
element of its source counts. -/
theorem evexBroadcastRuns (hVL : VL ≤ 512) (hlanes : VL / w ≤ 64)
    (hc : ∀ f s, exec (c f) s = execEvex w VL true fs f s) : EvexBroadcastRuns c w VL fs := by
  intro s f m hrm hb hready hoperand
  rw [hc]
  have complete := fun src => execEvex_completes (src := src) (bcst := true)
    (elem := fun _ => loadLE w s.mem (evexAddress w VL s f m)) hVL hlanes hready (not_broadcastBad hrm fun _ => rfl)
  have maskBit : ∀ {j}, j < VL / w → ((writeMask s f).getLsbD j = true ↔ MaskBit s f j) := fun hj =>
    getLsbD_writeMask s f _ (hj.trans_le hlanes)
  by_cases hread : s.cfg.suppress = false ∨ ∃ j < VL / w, (writeMask s f).getLsbD j = true
  case pos =>
    have hok : OperandOk s.cfg (evexAddress w VL s f m) (w / 8) .broadcast := by
      refine hoperand.resolve_right fun ⟨hs, hempty⟩ => ?_
      rcases hread with hread | ⟨j, hj, hbit⟩
      · exact Bool.false_ne_true (hread.symm.trans hs)
      · exact hempty j hj ((maskBit hj).1 hbit)
    exact complete _ (evexSource_of_broadcastOk hrm hb hread hok) fun j hj _ => lane_broadcast w VL _ hj
  case neg =>
    obtain ⟨hs, hempty⟩ := not_or.1 hread
    have hclear : ∀ j < VL / w, (writeMask s f).getLsbD j = false := fun j hj =>
      Bool.eq_false_of_not_eq_true fun hbit => hempty ⟨j, hj, hbit⟩
    exact complete 0 (evexSource_broadcast_of_empty hrm hb (Bool.eq_true_of_not_eq_false hs) hclear)
      fun j hj hset => absurd ⟨j, hj, (maskBit hj).2 hset⟩ hempty

end

/-- Settles O25: each form is the shared EVEX meaning at its widths; the vector fits its register and has at most 64
elements, a mask bit for each. -/
theorem evexFormsRegister : Obligations.EvexFormsRegister := by
  refine ⟨?_, ?_, ?_, ?_, ?_, ?_, ?_, ?_, ?_, ?_, ?_, ?_⟩ <;>
    exact evexRegRuns (by decide) (by decide) fun _ _ => rfl

/-- Settles O26: each form is the shared EVEX meaning at its widths. -/
theorem evexFormsMemory : Obligations.EvexFormsMemory := by
  refine ⟨?_, ?_, ?_, ?_, ?_, ?_, ?_, ?_, ?_, ?_, ?_, ?_⟩ <;>
    exact evexMemRuns (by decide) (by decide) fun _ _ => rfl

/-- Settles O28: the six forms are the shared EVEX meaning with a broadcast. -/
theorem evexFormsBroadcast : Obligations.EvexFormsBroadcast := by
  refine ⟨?_, ?_, ?_, ?_, ?_, ?_⟩ <;> exact evexBroadcastRuns (by decide) (by decide) fun _ _ => rfl

end Sys2Proof.Machine
end

section
/-!
SUPPORT. How the EVEX forms read the write-mask (`42_vpabs_evex.md` R181, R183, R184): only the bits below `KL` count,
and with none of them set only the upper bits, or the whole register, are zeroed.
-/
namespace Sys2Proof.Machine
open Sys2Proof.Safety

/-! ### Values made of the lanes of a value -/

/-- A value whose lanes fill it is made of its lanes. -/
theorem packLanes_lane {w L n : Nat} (hw : 0 < w) (hfill : w * n = L) (v : BitVec L) :
    packLanes w L (fun j => lane w j v) n = v := by
  refine BitVec.eq_of_getLsbD_eq fun i hi => ?_
  rw [getLsbD_packLanes w L _ hw, lane, BitVec.getLsbD_extractLsb', Nat.div_add_mod]
  simp [hi, hfill, Nat.mod_lt i hw]

theorem packLanes_zero (w L n : Nat) : packLanes w L (fun _ => 0#w) n = 0#L := by
  induction n with
  | zero => rfl
  | succ n ih => simp [packLanes, ih]

/-! ### `MaskedAbs` by its mask (R183) -/

/-- The bits of the mask from the number of elements on do not count. -/
theorem maskedAbs_congr {w VL : Nat} {mask mask' : BitVec 64}
    (h : ∀ j < VL / w, mask'.getLsbD j = mask.getLsbD j) (src : BitVec VL) (z : Bool) (old : BitVec VL) :
    maskedAbs w VL src mask' z old = maskedAbs w VL src mask z old :=
  packLanes_congr w VL _ _ _ fun j hj => by rw [h j hj]

/-- With every mask bit set the result is `PackedAbs` of the source. -/
theorem maskedAbs_of_full {w VL : Nat} {mask : BitVec 64} (h : ∀ j < VL / w, mask.getLsbD j = true)
    (src : BitVec VL) (z : Bool) (old : BitVec VL) : maskedAbs w VL src mask z old = packedAbs w VL src :=
  packLanes_congr w VL _ _ _ fun j hj => by rw [h j hj, maskedLane_one]

/-- With no mask bit set merging keeps every lane. -/
theorem maskedAbs_merge_of_empty {w VL : Nat} (hw : 0 < w) (hfill : w * (VL / w) = VL) {mask : BitVec 64}
    (h : ∀ j < VL / w, mask.getLsbD j = false) (src old : BitVec VL) : maskedAbs w VL src mask false old = old :=
  (packLanes_congr w VL _ _ _ fun j hj => by rw [h j hj, maskedLane_merge]).trans (packLanes_lane hw hfill old)

/-- With no mask bit set zeroing clears every lane. -/
theorem maskedAbs_zero_of_empty {w VL : Nat} {mask : BitVec 64} (h : ∀ j < VL / w, mask.getLsbD j = false)
    (src old : BitVec VL) : maskedAbs w VL src mask true old = 0#VL :=
  (packLanes_congr w VL _ _ _ fun j hj => by rw [h j hj, maskedLane_zero, BitVec.ofNat_eq_ofNat]).trans
    (packLanes_zero w VL _)

/-! ### The write-mask (R181) -/

theorem writeMask_of_aaa_ne {f : EvexForm} (h : f.aaa ≠ 0#3) (s : State) : writeMask s f = s.kReg f.aaa :=
  if_neg h

theorem getLsbD_writeMask_of_unmasked {f : EvexForm} (h : f.aaa = 0#3) (s : State) {j : Nat} (hj : j < 64) :
    (writeMask s f).getLsbD j = true :=
  (getLsbD_writeMask s f j hj).2 (.inl h)

/-- Where two sets of opmask registers agree in the selected register, so do the write-masks. -/
theorem getLsbD_writeMask_withK {f : EvexForm} {s : State} {k' : Vector (BitVec 64) 8} {n : Nat}
    (h : ∀ j < n, ({ s with k := k' }.kReg f.aaa).getLsbD j = (s.kReg f.aaa).getLsbD j) :
    ∀ j < n, (writeMask { s with k := k' } f).getLsbD j = (writeMask s f).getLsbD j := by
  by_cases hz : f.aaa = 0#3
  · simp [writeMask, hz]
  · simpa only [writeMask_of_aaa_ne hz] using h

/-! ### The EVEX forms, with the vector length and the number of elements of each -/

/-- The twelve EVEX forms, each with `VL` and `KL` (R181). -/
def evexForms : List ((EvexForm → Instr) × Nat × Nat) :=
  [(.vpabsbEvex128, 128, 16), (.vpabsbEvex256, 256, 32), (.vpabsbEvex512, 512, 64),
    (.vpabswEvex128, 128, 8), (.vpabswEvex256, 256, 16), (.vpabswEvex512, 512, 32),
    (.vpabsdEvex128, 128, 4), (.vpabsdEvex256, 256, 8), (.vpabsdEvex512, 512, 16),
    (.vpabsqEvex128, 128, 2), (.vpabsqEvex256, 256, 4), (.vpabsqEvex512, 512, 8)]

/-- Each is the shared EVEX meaning at its `VL`, for an element width of which `KL` fill the vector. -/
theorem exec_of_mem_evexForms : ∀ x ∈ evexForms, ∃ w bcst fs,
    (0 < w ∧ x.2.1 / w = x.2.2 ∧ w * x.2.2 = x.2.1 ∧ x.2.1 ≤ 512 ∧ x.2.2 ≤ 64) ∧
      ∀ f s, exec (x.1 f) s = execEvex w x.2.1 bcst fs f s := by
  simp only [evexForms, List.forall_mem_cons]
  exact ⟨⟨8, _, _, by decide, fun _ _ => rfl⟩, ⟨8, _, _, by decide, fun _ _ => rfl⟩,
    ⟨8, _, _, by decide, fun _ _ => rfl⟩, ⟨16, _, _, by decide, fun _ _ => rfl⟩,
    ⟨16, _, _, by decide, fun _ _ => rfl⟩, ⟨16, _, _, by decide, fun _ _ => rfl⟩,
    ⟨32, _, _, by decide, fun _ _ => rfl⟩, ⟨32, _, _, by decide, fun _ _ => rfl⟩,
    ⟨32, _, _, by decide, fun _ _ => rfl⟩, ⟨64, _, _, by decide, fun _ _ => rfl⟩,
    ⟨64, _, _, by decide, fun _ _ => rfl⟩, ⟨64, _, _, by decide, fun _ _ => rfl⟩, nofun⟩

/-! ### Mask bits from `KL` on (R181) -/

theorem activeElements_congr {mask mask' : BitVec 64} {n : Nat} (h : ∀ j < n, mask'.getLsbD j = mask.getLsbD j) :
    activeElements mask' n = activeElements mask n :=
  List.filter_congr fun j hj => h j (List.mem_range.1 hj)

theorem memReadMasked_congr {w L : Nat} {mask mask' : BitVec 64}
    (h : ∀ j < L / w, mask'.getLsbD j = mask.getLsbD j) (s : State) (seg : Seg) (lin : Nat) :
    memReadMasked s seg lin w L mask' = memReadMasked s seg lin w L mask := by
  have hlanes := packLanes_congr w L (fun j => if mask'.getLsbD j then loadLE w s.mem (lin + j * (w / 8)) else 0)
    (fun j => if mask.getLsbD j then loadLE w s.mem (lin + j * (w / 8)) else 0) (L / w) fun j hj => by rw [h j hj]
  rw [memReadMasked, memReadMasked, activeElements_congr h, hlanes]

section
variable {w VL : Nat} {bcst : Bool} {fs : List Feature} {f : EvexForm} {s : State} {k' : Vector (BitVec 64) 8}

/-- The source reads the opmask registers only through the mask bits of its elements, with fault suppression. -/
theorem evexSource_withK
    (h : ∀ j < VL / w, (writeMask { s with k := k' } f).getLsbD j = (writeMask s f).getLsbD j) :
    evexSource w VL { s with k := k' } f = evexSource w VL s f := by
  cases hrm : f.rm with
  | reg rm => rw [evexSource_reg hrm, evexSource_reg hrm]; rfl
  | mem m =>
    simp only [evexSource, hrm, evexMemSource, activeElements_congr h, memReadMasked_congr h]
    rfl

/-- So does the result: with other opmask registers whose mask bits agree, a form ends alike. -/
theorem execEvex_withK_of_next {t : State}
    (h : ∀ j < VL / w, (writeMask { s with k := k' } f).getLsbD j = (writeMask s f).getLsbD j)
    (hexec : execEvex w VL bcst fs f s = .next t) :
    execEvex w VL bcst fs f { s with k := k' } = .next { t with k := k' } := by
  obtain ⟨hchecks, src, hsource, rfl⟩ := (execEvex_eq_next ..).1 hexec
  refine (execEvex_eq_next ..).2 ⟨hchecks, src, (evexSource_withK h).trans hsource, ?_⟩
  rw [maskedAbs_congr h]
  rfl

theorem execEvex_withK_of_fault {e : Fault}
    (h : ∀ j < VL / w, (writeMask { s with k := k' } f).getLsbD j = (writeMask s f).getLsbD j)
    (hexec : execEvex w VL bcst fs f s = .fault e) : execEvex w VL bcst fs f { s with k := k' } = .fault e := by
  rw [execEvex_eq_fault] at hexec ⊢
  rwa [evexSource_withK h]

theorem execEvex_withK_of_refused {r : Refusal}
    (h : ∀ j < VL / w, (writeMask { s with k := k' } f).getLsbD j = (writeMask s f).getLsbD j)
    (hexec : execEvex w VL bcst fs f s = .refused r) : execEvex w VL bcst fs f { s with k := k' } = .refused r := by
  rw [execEvex_eq_refused] at hexec ⊢
  rwa [evexSource_withK h]

end

/-- Settles O54: the mask bits below `KL` are all that the source and the result use of the opmask registers. -/
theorem maskBitsAboveKLAreIgnored : Obligations.MaskBitsAboveKLAreIgnored := by
  intro x hx f s k' hagree
  obtain ⟨y, hy, rfl⟩ := List.mem_map.1 (show x ∈ evexForms.map fun y => (y.1, y.2.2) from hx)
  obtain ⟨w, bcst, fs, ⟨-, hKL, -⟩, hc⟩ := exec_of_mem_evexForms y hy
  have hmask := getLsbD_writeMask_withK (n := y.2.1 / w) (hKL ▸ hagree)
  simp only [hc]
  cases hexec : execEvex w y.2.1 bcst fs f s with
  | next t => rw [execEvex_withK_of_next hmask hexec]
  | fault e => rw [execEvex_withK_of_fault hmask hexec]
  | refused r => rw [execEvex_withK_of_refused hmask hexec]

/-! ### No mask bit set (R184, R197 (d)) -/

/-- Settles O58: merging gives back the old low bits and zeroing gives 0, whatever the source is. -/
theorem emptyMaskEffect : Obligations.EmptyMaskEffect := by
  intro x hx s t f haaa hempty hexec
  obtain ⟨w, bcst, fs, ⟨hw, hKL, hfill, -⟩, hc⟩ := exec_of_mem_evexForms x hx
  rw [hc, execEvex_eq_next, writeMask_of_aaa_ne haaa] at hexec
  obtain ⟨-, src, -, rfl⟩ := hexec
  rw [← hKL] at hempty hfill
  rw [State.zmmReg_advance, State.zmmReg_setZmm_self]
  refine ⟨fun hz => ?merge, fun hz => ?zero⟩
  case merge => rw [hz, maskedAbs_merge_of_empty hw hfill hempty]
  case zero => rw [hz, maskedAbs_zero_of_empty hempty, BitVec.setWidth_zero, BitVec.ofNat_eq_ofNat]

end Sys2Proof.Machine
end

section
/-!
SUPPORT. How the forms of the encoding classes agree on registers (`42_vpabs_evex.md` R197): the legacy, the VEX and the
unmasked EVEX form write the same `PackedAbs`, under upper bits that are kept or zeroed, and a second application leaves
it as it is.
-/
namespace Sys2Proof.Machine
open Sys2Proof.Safety

/-! ### Parts of the results -/

/-- `PackedAbs` of a `PackedAbs` is the same, because `ABS` is idempotent in each lane (R140 (b)). -/
theorem packedAbs_packedAbs (w L : Nat) (src : BitVec L) :
    packedAbs w L (packedAbs w L src) = packedAbs w L src :=
  packLanes_congr w L _ _ _ fun j hj => by
    rw [lane, lane_packedAbs w L src j hj, absW_absW, lane]

theorem setWidth_setWidth_512 {VL : Nat} (hVL : VL ≤ 512) (v : BitVec VL) : (v.setWidth 512).setWidth VL = v := by
  rw [BitVec.setWidth_setWidth_of_le v hVL, BitVec.setWidth_eq]

theorem setWidth_keepUpper (old : BitVec 512) (low : BitVec 128) : (keepUpper old low).setWidth 128 = low :=
  BitVec.eq_of_getLsbD_eq fun i hi => by simp [getLsbD_keepUpper, hi]

theorem ushiftRight_keepUpper (old : BitVec 512) (low : BitVec 128) : keepUpper old low >>> 128 = old >>> 128 :=
  BitVec.eq_of_getLsbD_eq fun i hi => by simp [getLsbD_keepUpper]

theorem keepUpper_keepUpper (old : BitVec 512) (low : BitVec 128) :
    keepUpper (keepUpper old low) low = keepUpper old low := by
  rw [keepUpper, ushiftRight_keepUpper, ← keepUpper]

/-! ### What the register forms write -/

section
variable {w VL : Nat} {s t : State} {rm : BitVec 3}

theorem mmReg_of_execMmx_reg {f : LegacyForm} (hrm : f.rm = .reg rm) (h : execMmx w f s = .next t) (i : BitVec 3) :
    t.mmReg i = if i = f.reg then packedAbs w 64 (s.mmReg rm) else s.mmReg i := by
  rw [execMmx_eq_next, mmxSource_reg hrm] at h
  obtain ⟨-, _, ⟨⟩, rfl⟩ := h
  exact State.mmReg_setMm ..

theorem zmmReg_of_execXmm_reg {f : LegacyForm} (hrm : f.rm = .reg rm) (h : execXmm w f s = .next t) (i : BitVec 5) :
    t.zmmReg i = if i = legacyDst f then
      keepUpper (s.zmmReg (legacyDst f)) (packedAbs w 128 ((s.zmmReg (legacySrc f rm)).setWidth 128))
      else s.zmmReg i := by
  rw [execXmm_eq_next, xmmSource_reg hrm] at h
  obtain ⟨-, _, ⟨⟩, rfl⟩ := h
  exact State.zmmReg_setZmm ..

theorem zmmReg_of_execVex_reg {x : Feature} {f : VexForm} (hrm : f.rm = .reg rm)
    (h : execVex w VL x f s = .next t) (i : BitVec 5) :
    t.zmmReg i = if i = vexDst f then (packedAbs w VL ((s.zmmReg (vexSrc f rm)).setWidth VL)).setWidth 512
      else s.zmmReg i := by
  rw [execVex_eq_next, vexSource_reg hrm] at h
  obtain ⟨-, _, ⟨⟩, rfl⟩ := h
  exact State.zmmReg_setZmm ..

/-- Without a mask an EVEX form writes `PackedAbs` of its source, zero-extended, as a VEX form does. -/
theorem zmmReg_of_execEvex_reg {bcst : Bool} {fs : List Feature} {f : EvexForm} (hlanes : VL / w ≤ 64)
    (hrm : f.rm = .reg rm) (haaa : f.aaa = 0#3) (h : execEvex w VL bcst fs f s = .next t) (i : BitVec 5) :
    t.zmmReg i = if i = evexDst f then (packedAbs w VL ((s.zmmReg (evexSrc f rm)).setWidth VL)).setWidth 512
      else s.zmmReg i := by
  rw [execEvex_eq_next, evexSource_reg hrm] at h
  obtain ⟨-, _, ⟨⟩, rfl⟩ := h
  rw [maskedAbs_of_full fun j hj => getLsbD_writeMask_of_unmasked haaa s (hj.trans_le hlanes)]
  exact State.zmmReg_setZmm ..

end

/-! ### VEX and EVEX, VEX and legacy (R197 (a), (b)) -/

/-- The VEX and EVEX forms of equal width and length. -/
def vexEvexPairs : List ((VexForm → Instr) × (EvexForm → Instr)) :=
  [(.vpabsbVex128, .vpabsbEvex128), (.vpabswVex128, .vpabswEvex128), (.vpabsdVex128, .vpabsdEvex128),
    (.vpabsbVex256, .vpabsbEvex256), (.vpabswVex256, .vpabswEvex256), (.vpabsdVex256, .vpabsdEvex256)]

theorem exec_of_mem_vexEvexPairs : ∀ x ∈ vexEvexPairs, ∃ w VL feature bcst fs, (VL ≤ 512 ∧ VL / w ≤ 64) ∧
    (∀ f s, exec (x.1 f) s = execVex w VL feature f s) ∧ ∀ g s, exec (x.2 g) s = execEvex w VL bcst fs g s := by
  simp only [vexEvexPairs, List.forall_mem_cons]
  exact ⟨⟨8, 128, _, _, _, by decide, fun _ _ => rfl, fun _ _ => rfl⟩,
    ⟨16, 128, _, _, _, by decide, fun _ _ => rfl, fun _ _ => rfl⟩,
    ⟨32, 128, _, _, _, by decide, fun _ _ => rfl, fun _ _ => rfl⟩,
    ⟨8, 256, _, _, _, by decide, fun _ _ => rfl, fun _ _ => rfl⟩,
    ⟨16, 256, _, _, _, by decide, fun _ _ => rfl, fun _ _ => rfl⟩,
    ⟨32, 256, _, _, _, by decide, fun _ _ => rfl, fun _ _ => rfl⟩, nofun⟩

/-- Settles O55: both forms write the zero-extended `PackedAbs` of the one source to the one destination. -/
theorem unmaskedEvexEqualsVex : Obligations.UnmaskedEvexEqualsVex := by
  intro x hx s t u f g rf rg hf hg hdst hsrc haaa ht hu i
  obtain ⟨w, VL, feature, bcst, fs, ⟨-, hlanes⟩, hvex, hevex⟩ := exec_of_mem_vexEvexPairs x hx
  rw [hvex] at ht
  rw [hevex] at hu
  rw [zmmReg_of_execVex_reg hf ht, zmmReg_of_execEvex_reg hlanes hg haaa hu, hdst, hsrc]

/-- The legacy xmm and VEX.128 forms of equal width. -/
def xmmVexPairs : List ((LegacyForm → Instr) × (VexForm → Instr)) :=
  [(.pabsbXmm, .vpabsbVex128), (.pabswXmm, .vpabswVex128), (.pabsdXmm, .vpabsdVex128)]

theorem exec_of_mem_xmmVexPairs : ∀ x ∈ xmmVexPairs, ∃ w feature,
    (∀ f s, exec (x.1 f) s = execXmm w f s) ∧ ∀ g s, exec (x.2 g) s = execVex w 128 feature g s := by
  simp only [xmmVexPairs, List.forall_mem_cons]
  exact ⟨⟨8, _, fun _ _ => rfl, fun _ _ => rfl⟩, ⟨16, _, fun _ _ => rfl, fun _ _ => rfl⟩,
    ⟨32, _, fun _ _ => rfl, fun _ _ => rfl⟩, nofun⟩

/-- Settles O56: both forms write `PackedAbs` of the one source, under the old upper bits and under zeros. -/
theorem vexAndLegacyAgreeOnTheLowHalf : Obligations.VexAndLegacyAgreeOnTheLowHalf := by
  intro x hx s t u f g rf rg hf hg hdst hsrc ht hu
  obtain ⟨w, feature, hxmm, hvex⟩ := exec_of_mem_xmmVexPairs x hx
  rw [hxmm] at ht
  rw [hvex] at hu
  rw [zmmReg_of_execXmm_reg hf ht, zmmReg_of_execVex_reg hg hu, if_pos rfl, if_pos rfl, hsrc]
  refine ⟨?low, ushiftRight_keepUpper .., ?upper⟩
  case low => rw [setWidth_setWidth_512 (by decide), setWidth_keepUpper]
  case upper =>
    refine BitVec.eq_of_getLsbD_eq fun i _ => ?_
    rw [BitVec.getLsbD_ushiftRight, getLsbD_setWidth_of_ge _ (Nat.le_add_right 128 i)]
    simp

/-! ### A form applied twice (R197 (e)) -/

theorem exec_mmxForms : ∀ c ∈ [Instr.pabsbMm, .pabswMm, .pabsdMm], ∃ w, ∀ f s, exec (c f) s = execMmx w f s := by
  simp only [List.forall_mem_cons]
  exact ⟨⟨8, fun _ _ => rfl⟩, ⟨16, fun _ _ => rfl⟩, ⟨32, fun _ _ => rfl⟩, nofun⟩

section
variable {w VL : Nat} {s t u : State} {rm rm' : BitVec 3}

theorem execMmx_twice {f g : LegacyForm} (hf : f.rm = .reg rm) (hdst : g.reg = f.reg) (hg : g.rm = .reg f.reg)
    (ht : execMmx w f s = .next t) (hu : execMmx w g t = .next u) (i : BitVec 3) : u.mmReg i = t.mmReg i := by
  rw [mmReg_of_execMmx_reg hg hu, hdst]
  split
  next hi => rw [hi, mmReg_of_execMmx_reg hf ht, if_pos rfl, packedAbs_packedAbs]
  next => rfl

theorem execXmm_twice {f g : LegacyForm} (hf : f.rm = .reg rm) (hg : g.rm = .reg rm')
    (hdst : legacyDst g = legacyDst f) (hsrc : legacySrc g rm' = legacyDst f)
    (ht : execXmm w f s = .next t) (hu : execXmm w g t = .next u) (i : BitVec 5) : u.zmmReg i = t.zmmReg i := by
  rw [zmmReg_of_execXmm_reg hg hu, hdst, hsrc]
  split
  next hi =>
    rw [hi, zmmReg_of_execXmm_reg hf ht, if_pos rfl, setWidth_keepUpper, packedAbs_packedAbs, keepUpper_keepUpper]
  next => rfl

theorem execVex_twice {x : Feature} {f g : VexForm} (hVL : VL ≤ 512) (hf : f.rm = .reg rm) (hg : g.rm = .reg rm')
    (hdst : vexDst g = vexDst f) (hsrc : vexSrc g rm' = vexDst f)
    (ht : execVex w VL x f s = .next t) (hu : execVex w VL x g t = .next u) (i : BitVec 5) :
    u.zmmReg i = t.zmmReg i := by
  rw [zmmReg_of_execVex_reg hg hu, hdst, hsrc]
  split
  next hi => rw [hi, zmmReg_of_execVex_reg hf ht, if_pos rfl, setWidth_setWidth_512 hVL, packedAbs_packedAbs]
  next => rfl

theorem execEvex_twice {bcst : Bool} {fs : List Feature} {f g : EvexForm} (hVL : VL ≤ 512) (hlanes : VL / w ≤ 64)
    (hf : f.rm = .reg rm) (hg : g.rm = .reg rm') (hfa : f.aaa = 0#3) (hga : g.aaa = 0#3)
    (hdst : evexDst g = evexDst f) (hsrc : evexSrc g rm' = evexDst f)
    (ht : execEvex w VL bcst fs f s = .next t) (hu : execEvex w VL bcst fs g t = .next u) (i : BitVec 5) :
    u.zmmReg i = t.zmmReg i := by
  rw [zmmReg_of_execEvex_reg hlanes hg hga hu, hdst, hsrc]
  split
  next hi =>
    rw [hi, zmmReg_of_execEvex_reg hlanes hf hfa ht, if_pos rfl, setWidth_setWidth_512 hVL, packedAbs_packedAbs]
  next => rfl

end

/-- Settles O57: the first application leaves a `PackedAbs` in the destination, which the second leaves as it is. -/
theorem absoluteValueTwiceIsOnce : Obligations.AbsoluteValueTwiceIsOnce := by
  refine ⟨fun c hmem s t u f g rm hf hdst hg ht hu => ?mmx,
    fun c hmem s t u f g rm rm' hf hg hdst hsrc ht hu => ?xmm,
    fun c hmem s t u f g rm rm' hf hg hdst hsrc ht hu => ?vex,
    fun c hmem s t u f g rm rm' hf hg hfa hga hdst hsrc ht hu => ?evex⟩
  case mmx =>
    obtain ⟨w, hc⟩ := exec_mmxForms c hmem
    rw [hc] at ht hu
    exact execMmx_twice hf hdst hg ht hu
  case xmm =>
    obtain ⟨x, hx, rfl⟩ := List.mem_map.1 (show c ∈ xmmVexPairs.map Prod.fst from hmem)
    obtain ⟨w, -, hc, -⟩ := exec_of_mem_xmmVexPairs x hx
    rw [hc] at ht hu
    exact execXmm_twice hf hg hdst hsrc ht hu
  case vex =>
    obtain ⟨x, hx, rfl⟩ := List.mem_map.1 (show c ∈ vexEvexPairs.map Prod.fst from hmem)
    obtain ⟨w, VL, feature, -, -, ⟨hVL, -⟩, hc, -⟩ := exec_of_mem_vexEvexPairs x hx
    rw [hc] at ht hu
    exact execVex_twice hVL hf hg hdst hsrc ht hu
  case evex =>
    obtain ⟨x, hx, rfl⟩ := List.mem_map.1 (show c ∈ evexForms.map Prod.fst from hmem)
    obtain ⟨w, bcst, fs, ⟨-, hKL, -, hVL, hlanes⟩, hc⟩ := exec_of_mem_evexForms x hx
    rw [hc] at ht hu
    exact execEvex_twice hVL (hKL.trans_le hlanes) hf hg hfa hga hdst hsrc ht hu

end Sys2Proof.Machine
end

section
/-!
SUPPORT. Where the forms fault (`60_exceptions.md` R218 to R224), and where fault suppression lets a masked EVEX form
run (R236): the checks of a class in their order, then the faults of the read primitives in theirs.
-/
namespace Sys2Proof.Machine
open Sys2Proof.Safety

/-! ### The faults of a read (R55, R238) -/

/-- The read primitive faults exactly where `OperandFault` says, in its order (R55, R238). -/
theorem memRead_eq_operandFault (s : State) (seg : Seg) (lin L : Nat) (al : Bool) (shape : AcShape) (e : Fault) :
    memRead s seg lin L al shape = .error (.fault e) ↔ OperandFault s.cfg seg lin (L / 8) al shape e := by
  rw [memRead_eq_error]
  simp only [OperandFault, Accessible, Aligned16, rangeFault, and_assoc, and_left_comm, ne_eq]

/-! ### The masked read, element by element (R236) -/

theorem activeElements_pairwise_lt (mask : BitVec 64) (n : Nat) : (activeElements mask n).Pairwise (· < ·) :=
  List.pairwise_lt_range.filter _

/-- What stands before an active element: the active elements below it. -/
theorem mem_left_of_activeElements_eq {mask : BitVec 64} {n j : Nat} {l₁ l₂ : List Nat}
    (h : activeElements mask n = l₁ ++ j :: l₂) (i : Nat) : i ∈ l₁ ↔ i < j ∧ mask.getLsbD i = true := by
  have hmem := mem_activeElements mask n
  have hsorted := activeElements_pairwise_lt mask n
  rw [h, List.pairwise_append, List.pairwise_cons] at hsorted
  obtain ⟨-, ⟨hright, -⟩, hleft⟩ := hsorted
  simp only [h, List.mem_append, List.mem_cons] at hmem
  constructor
  · intro hi
    obtain ⟨-, hbit⟩ := (hmem i).1 (.inl hi)
    exact ⟨hleft i hi j List.mem_cons_self, hbit⟩
  · rintro ⟨hij, hbit⟩
    obtain ⟨hj, -⟩ := (hmem j).1 (.inr (.inl rfl))
    rcases (hmem i).2 ⟨hij.trans hj, hbit⟩ with hi | rfl | hi
    · exact hi
    · exact absurd hij (lt_irrefl _)
    · exact absurd hij (hright i hi).asymm

/-- A search of the active elements answers what the lowest one that answers gives. -/
theorem findSome?_activeElements {α : Type} (g : Nat → Option α) (mask : BitVec 64) (n : Nat) (a : α) :
    (activeElements mask n).findSome? g = some a ↔
      ∃ j < n, mask.getLsbD j = true ∧ (∀ i < j, mask.getLsbD i = true → g i = none) ∧ g j = some a := by
  rw [List.findSome?_eq_some_iff]
  constructor
  · rintro ⟨l₁, j, l₂, hsplit, hj, hnone⟩
    obtain ⟨hlt, hbit⟩ := (mem_activeElements mask n j).1 (by simp [hsplit])
    exact ⟨j, hlt, hbit, fun i hij hi => hnone i ((mem_left_of_activeElements_eq hsplit i).2 ⟨hij, hi⟩), hj⟩
  · rintro ⟨j, hlt, hbit, hnone, hj⟩
    obtain ⟨l₁, l₂, hsplit⟩ := List.append_of_mem ((mem_activeElements mask n j).2 ⟨hlt, hbit⟩)
    refine ⟨l₁, j, l₂, hsplit, hj, fun i hi => ?_⟩
    obtain ⟨hij, hset⟩ := (mem_left_of_activeElements_eq hsplit i).1 hi
    exact hnone i hij hset

/-- The masked read faults exactly where R236 says: at the range of an active element, at the lowest page fault of one,
or at the whole operand's alignment check (assumption log 16). -/
theorem memReadMasked_eq_error (s : State) (seg : Seg) (lin w L : Nat) (mask : BitVec 64) (e : Fault) :
    memReadMasked s seg lin w L mask = .error (.fault e) ↔
      ((∃ j < L / w, mask.getLsbD j = true ∧ rangeOk s.cfg (lin + j * (w / 8)) (w / 8) = false) ∧
        e = rangeFault seg) ∨
      ((∀ j < L / w, mask.getLsbD j = true → rangeOk s.cfg (lin + j * (w / 8)) (w / 8) = true) ∧
        ∃ code, (∃ j < L / w, mask.getLsbD j = true ∧
            (∀ i < j, mask.getLsbD i = true → accessCheck s.cfg .dataRead (lin + i * (w / 8)) (w / 8) = none) ∧
            accessCheck s.cfg .dataRead (lin + j * (w / 8)) (w / 8) = some code) ∧ e = .pf code) ∨
      ((∃ j < L / w, mask.getLsbD j = true) ∧
        (∀ j < L / w, mask.getLsbD j = true → rangeOk s.cfg (lin + j * (w / 8)) (w / 8) = true) ∧
        (∀ j < L / w, mask.getLsbD j = true → accessCheck s.cfg .dataRead (lin + j * (w / 8)) (w / 8) = none) ∧
        alignCheck s.cfg .vector lin (L / 8) = true ∧ e = .ac0) := by
  have hsome : (∃ j < L / w, mask.getLsbD j = true) ↔ activeElements mask (L / w) ≠ [] := by
    simp [List.eq_nil_iff_forall_not_mem]
  have hout : (∃ j < L / w, mask.getLsbD j = true ∧ rangeOk s.cfg (lin + j * (w / 8)) (w / 8) = false) ↔
      ((activeElements mask (L / w)).any fun j => !rangeOk s.cfg (lin + j * (w / 8)) (w / 8)) = true := by
    simp [List.any_eq_true, and_assoc]
  have hin : (∀ j < L / w, mask.getLsbD j = true → rangeOk s.cfg (lin + j * (w / 8)) (w / 8) = true) ↔
      ((activeElements mask (L / w)).any fun j => !rangeOk s.cfg (lin + j * (w / 8)) (w / 8)) = false := by
    simp [List.any_eq_false]
  have hok : (∀ j < L / w, mask.getLsbD j = true → accessCheck s.cfg .dataRead (lin + j * (w / 8)) (w / 8) = none) ↔
      ((activeElements mask (L / w)).findSome? fun j => accessCheck s.cfg .dataRead (lin + j * (w / 8)) (w / 8)) =
        none := by
    simp [List.findSome?_eq_none_iff]
  simp only [← findSome?_activeElements (fun j => accessCheck s.cfg .dataRead (lin + j * (w / 8)) (w / 8))]
  rw [hsome, hout, hin, hok, memReadMasked]
  cases hactive : activeElements mask (L / w) with
  | nil => simp
  | cons j js =>
    dsimp only [List.isEmpty_cons]
    generalize ((j :: js).any fun j => !rangeOk s.cfg (lin + j * (w / 8)) (w / 8)) = out
    generalize ((j :: js).findSome? fun j => accessCheck s.cfg .dataRead (lin + j * (w / 8)) (w / 8)) = pf
    generalize ((j :: js).any fun j => !ordinary s.cfg (lin + j * (w / 8)) (w / 8)) = dev
    -- the branches of the definition, by the answers of its tests
    cases out <;> cases pf <;> cases alignCheck s.cfg .vector lin (L / 8) <;> cases dev <;> simp <;> exact eq_comm

/-! ### The MMX forms (R218, R224) -/

theorem mmxUd_eq_false (c : Config) (f : LegacyForm) :
    mmxUd c f = false ↔ f.pfx.lock = false ∧ c.feat.ssse3 = true ∧ c.env.cr0Em = false := by
  simp [mmxUd, featureMissing, Features.has, and_assoc]

theorem mmxUd_eq_true (c : Config) (f : LegacyForm) :
    mmxUd c f = true ↔ f.pfx.lock = true ∨ c.feat.ssse3 = false ∨ c.env.cr0Em = true := by
  simp [mmxUd, featureMissing, Features.has, or_assoc]

theorem execMmx_of_nm {w : Nat} {f : LegacyForm} {s : State} (h : mmxUd s.cfg f = false)
    (hts : s.cfg.env.cr0Ts = true) : execMmx w f s = .fault .nm :=
  (execMmx_eq_fault ..).2 (.inl ((mmxChecks_eq_some ..).2 (.inr (.inl ⟨h, hts, rfl⟩))))

/-- `#MF` comes after `#UD` and `#NM`, and before the source is read (R224). -/
theorem execMmx_of_mf {w : Nat} {f : LegacyForm} {s : State} (h : mmxUd s.cfg f = false)
    (hts : s.cfg.env.cr0Ts = false) (hmf : s.cfg.env.x87Pending = true) : execMmx w f s = .fault .mf :=
  (execMmx_eq_fault ..).2 (.inl ((mmxChecks_eq_some ..).2 (.inr (.inr ⟨h, hts, hmf, rfl⟩))))

theorem execMmx_faults {w : Nat} {c : LegacyForm → Instr} (hc : ∀ f s, exec (c f) s = execMmx w f s) :
    MmxFaults c := by
  intro s f
  simp only [hc]
  refine ⟨fun hud => ?ud, fun hlock hssse3 hem hts => ?nm, fun hlock hssse3 hem hts hpending => ?mf,
    fun m e hrm hready hoperand => ?memory⟩
  case ud => exact execMmx_of_ud ((mmxUd_eq_true ..).2 hud)
  case nm => exact execMmx_of_nm ((mmxUd_eq_false ..).2 ⟨hlock, hssse3, hem⟩) hts
  case mf => exact execMmx_of_mf ((mmxUd_eq_false ..).2 ⟨hlock, hssse3, hem⟩) hts hpending
  case memory =>
    rw [execMmx_eq_fault, mmxChecks_eq_none, mmxSource, hrm]
    exact .inr ⟨hready, (memRead_eq_operandFault ..).2 hoperand⟩

/-- Settles O29: each form is the shared MMX meaning, whose read asks for no alignment. -/
theorem mmxFormsFault : Obligations.MmxFormsFault :=
  ⟨execMmx_faults fun _ _ => rfl, execMmx_faults fun _ _ => rfl, execMmx_faults fun _ _ => rfl⟩

/-! ### The legacy xmm forms (R220) -/

theorem xmmUd_eq_true (c : Config) (f : LegacyForm) :
    xmmUd c f = true ↔
      f.pfx.lock = true ∨ c.feat.ssse3 = false ∨ c.env.cr0Em = true ∨ c.env.cr4Osfxsr = false := by
  simp [xmmUd, featureMissing, Features.has, or_assoc]

theorem execXmm_of_nm {w : Nat} {f : LegacyForm} {s : State} (h : xmmUd s.cfg f = false)
    (hts : s.cfg.env.cr0Ts = true) : execXmm w f s = .fault .nm :=
  (execXmm_eq_fault ..).2 (.inl ((udThenNm_eq_some ..).2 (.inr ⟨h, hts, rfl⟩)))

/-- R57: an operand that must be aligned meets `#GP(0)` before the alignment check, which an aligned one passes. -/
theorem operandFault_aligned_ne_ac0 {c : Config} {seg : Seg} {lin : Nat} {e : Fault}
    (h : OperandFault c seg lin 16 true .vector e) : e ≠ .ac0 := by
  rcases h with ⟨-, rfl⟩ | ⟨-, -, -, rfl⟩ | ⟨-, -, code, -, rfl⟩ | ⟨-, haligned, hac, -⟩
  · split_ifs <;> exact nofun
  · exact nofun
  · exact nofun
  · exact absurd ((alignCheck_vector_of_aligned (haligned rfl)).symm.trans hac) Bool.false_ne_true

theorem execXmm_faults {w : Nat} {c : LegacyForm → Instr} (hc : ∀ f s, exec (c f) s = execXmm w f s) :
    XmmFaults c := by
  intro s f
  simp only [hc]
  refine ⟨fun hud => ?ud, fun hlock hssse3 hem hosfxsr hts => ?nm,
    fun m e hrm hready hoperand => ⟨?memory, operandFault_aligned_ne_ac0 hoperand⟩⟩
  case ud => exact execXmm_of_ud ((xmmUd_eq_true ..).2 hud)
  case nm => exact execXmm_of_nm ((xmmUd_eq_false ..).2 ⟨hlock, hssse3, hem, hosfxsr⟩) hts
  case memory =>
    rw [execXmm_eq_fault, xmmChecks_eq_none, xmmSource, hrm]
    exact .inr ⟨hready, (memRead_eq_operandFault ..).2 hoperand⟩

/-- Settles O30: each form is the shared legacy xmm meaning, whose read asks for an alignment of 16. -/
theorem xmmFormsFault : Obligations.XmmFormsFault :=
  ⟨execXmm_faults fun _ _ => rfl, execXmm_faults fun _ _ => rfl, execXmm_faults fun _ _ => rfl⟩

/-! ### The VEX forms (R221) -/

/-- A VEX form raises `#UD` exactly for one of the conditions of R221. -/
theorem vexUd_eq_true (c : Config) (x : Feature) (f : VexForm) :
    vexUd c x f = true ↔
      ¬ NoStrayPrefix f.pfx ∨ f.vvvv ≠ 15#4 ∨ c.feat.has x = false ∨ ¬ VexEnabled c.env := by
  rw [← Bool.not_eq_false, vexUd_eq_false, ← Bool.not_eq_true]
  tauto

theorem execVex_of_nm {w VL : Nat} {x : Feature} {f : VexForm} {s : State} (h : vexUd s.cfg x f = false)
    (hts : s.cfg.env.cr0Ts = true) : execVex w VL x f s = .fault .nm :=
  (execVex_eq_fault ..).2 (.inl ((udThenNm_eq_some ..).2 (.inr ⟨h, hts, rfl⟩)))

/-- R58: of the policies only `Always` checks the alignment of a whole vector operand. -/
theorem acPolicy_of_alignCheck_vector {c : Config} {lin n : Nat} (h : alignCheck c .vector lin n = true) :
    c.acPolicy = .always := by
  cases hpolicy : c.acPolicy <;> simp [alignCheck, hpolicy] at h ⊢

theorem acPolicy_of_operandFault_ac0 {c : Config} {seg : Seg} {lin n : Nat} {al : Bool} {e : Fault}
    (h : OperandFault c seg lin n al .vector e) (he : e = .ac0) : c.acPolicy = .always := by
  subst he
  rcases h with ⟨-, hrange⟩ | ⟨-, -, -, hgp⟩ | ⟨-, -, code, -, hpf⟩ | ⟨-, -, hac, -⟩
  · split_ifs at hrange
  · cases hgp
  · cases hpf
  · exact acPolicy_of_alignCheck_vector hac

theorem execVex_faults {w VL : Nat} {x : Feature} {c : VexForm → Instr}
    (hc : ∀ f s, exec (c f) s = execVex w VL x f s) : VexFaults c VL x := by
  intro s f
  simp only [hc]
  refine ⟨fun hud => ?ud, fun hpfx hvvvv hfeature henabled hts => ?nm,
    fun m e hrm hready hoperand => ⟨?memory, acPolicy_of_operandFault_ac0 hoperand⟩⟩
  case ud => exact execVex_of_ud ((vexUd_eq_true ..).2 hud)
  case nm => exact execVex_of_nm ((vexUd_eq_false ..).2 ⟨hpfx, hvvvv, hfeature, henabled⟩) hts
  case memory =>
    rw [execVex_eq_fault, vexChecks_eq_none, vexSource, hrm]
    exact .inr ⟨hready, (memRead_eq_operandFault ..).2 hoperand⟩

/-- Settles O31: each form is the shared VEX meaning, whose read asks for no alignment. -/
theorem vexFormsFault : Obligations.VexFormsFault := by
  refine ⟨?_, ?_, ?_, ?_, ?_, ?_⟩ <;> exact execVex_faults fun _ _ => rfl

/-! ### The memory operand of the EVEX forms (R222, R236) -/

section
variable {w VL : Nat} {bcst : Bool} {fs : List Feature} {c : EvexForm → Instr}

/-- A memory operand that stops with a fault is a form's fault, when no check comes before it. -/
theorem execEvex_of_sourceFault {f : EvexForm} {s : State} {m : MemRef} {e : Fault} (hrm : f.rm = .mem m)
    (hready : EvexReady s.cfg fs f) (hb : f.b = true → bcst = true)
    (hsource : evexSource w VL s f = .error (.fault e)) : execEvex w VL bcst fs f s = .fault e :=
  (execEvex_eq_fault ..).2 (.inr ⟨(evexChecks_eq_none ..).2 ⟨hready, not_broadcastBad hrm hb⟩, hsource⟩)

theorem execEvex_memFaults (hlanes : VL / w ≤ 64) (hc : ∀ f s, exec (c f) s = execEvex w VL bcst fs f s) :
    EvexMemFaults c w VL bcst fs := by
  intro s f m e hrm hready
  rw [hc]
  refine ⟨fun hb hmask hoperand => ?whole, fun hb hbcst hmask hoperand => ?broadcast⟩
  case whole =>
    refine execEvex_of_sourceFault hrm hready (by simp [hb]) ?_
    rw [evexSource_whole hrm hb hmask]
    exact (memRead_eq_operandFault ..).2 hoperand
  case broadcast =>
    have hread : s.cfg.suppress = false ∨ ∃ j < VL / w, (writeMask s f).getLsbD j = true :=
      hmask.imp_right fun ⟨j, hj, hbit⟩ => ⟨j, hj, (getLsbD_writeMask s f j (hj.trans_le hlanes)).2 hbit⟩
    refine execEvex_of_sourceFault hrm hready (fun _ => hbcst) ?_
    rw [evexSource_broadcast hrm hb hread, (memRead_eq_operandFault ..).2 hoperand]
    rfl

/-- With fault suppression the mask bits choose the elements that are checked, so a form faults where the masked read
does. -/
theorem execEvex_suppressedFaults (hlanes : VL / w ≤ 64) (hc : ∀ f s, exec (c f) s = execEvex w VL bcst fs f s) :
    EvexSuppressedFaults c w VL fs := by
  intro s f m hrm hb hready hs haaa
  have maskBit : ∀ {j}, j < VL / w → ((writeMask s f).getLsbD j = true ↔ MaskBit s f j) := fun hj =>
    getLsbD_writeMask s f _ (hj.trans_le hlanes)
  have faults : ∀ {e}, memReadMasked s (segmentOf f.pfx (!f.bBar) m) (evexAddress w VL s f m) w VL (writeMask s f) =
      .error (.fault e) → exec (c f) s = .fault e := fun hread => by
    rw [hc]
    exact execEvex_of_sourceFault hrm hready (by simp [hb]) ((evexSource_masked hrm hb hs haaa).trans hread)
  refine ⟨fun ⟨j, hj, hbit, hout⟩ => ?range, fun j code hj hbit hin hlower hpf => ?access,
    fun ⟨j, hj, hbit⟩ haccessible hac => ?alignment⟩ <;> refine faults ((memReadMasked_eq_error ..).2 ?_)
  case range => exact .inl ⟨⟨j, hj, (maskBit hj).2 hbit, hout⟩, rfl⟩
  case access =>
    refine .inr (.inl ⟨fun i hi hset => hin i hi ((maskBit hi).1 hset), code,
      ⟨j, hj, (maskBit hj).2 hbit, fun i hij hset => ?_, hpf⟩, rfl⟩)
    exact hlower i hij ((maskBit (hij.trans hj)).1 hset)
  case alignment =>
    have accessible := fun i hi hset => haccessible i hi ((maskBit hi).1 hset)
    exact .inr (.inr ⟨⟨j, hj, (maskBit hj).2 hbit⟩, fun i hi hset => (accessible i hi hset).1,
      fun i hi hset => (accessible i hi hset).2, hac, rfl⟩)

/-- With fault suppression the elements whose mask bit is 1 are all that the read needs and all that the result uses. -/
theorem evexSuppressedRuns (hVL : VL ≤ 512) (hlanes : VL / w ≤ 64)
    (hc : ∀ f s, exec (c f) s = execEvex w VL bcst fs f s) : EvexSuppressedRuns c w VL fs := by
  intro s f m hrm hb hready hs haaa hreadable hac
  have maskBit : ∀ {j}, j < VL / w → ((writeMask s f).getLsbD j = true ↔ MaskBit s f j) := fun hj =>
    getLsbD_writeMask s f _ (hj.trans_le hlanes)
  obtain ⟨src, hread, helem⟩ := memReadMasked_of_ok s (segmentOf f.pfx (!f.bBar) m) (evexAddress w VL s f m) w VL
    (writeMask s f) (fun j hj hset => and_assoc.1 (hreadable j hj ((maskBit hj).1 hset))) hac
  rw [hc]
  exact execEvex_completes hVL hlanes hready (not_broadcastBad_of_b_false hb)
    ((evexSource_masked hrm hb hs haaa).trans hread) fun j hj hbit => helem j hj ((maskBit hj).2 hbit)

end

/-- Settles O33: each form is the shared EVEX meaning at its widths, with at most 64 elements, a mask bit for each. -/
theorem evexFormsMemoryFault : Obligations.EvexFormsMemoryFault := by
  refine ⟨?_, ?_, ?_, ?_, ?_, ?_, ?_, ?_, ?_, ?_, ?_, ?_⟩ <;> exact execEvex_memFaults (by decide) fun _ _ => rfl

/-- Settles O34: each form is the shared EVEX meaning at its widths. -/
theorem evexFormsSuppressedFault : Obligations.EvexFormsSuppressedFault := by
  refine ⟨?_, ?_, ?_, ?_, ?_, ?_, ?_, ?_, ?_, ?_, ?_, ?_⟩ <;>
    exact execEvex_suppressedFaults (by decide) fun _ _ => rfl

/-- Settles O27: each form is the shared EVEX meaning at its widths, and the vector fits its register. -/
theorem evexFormsSuppressedMemory : Obligations.EvexFormsSuppressedMemory := by
  refine ⟨?_, ?_, ?_, ?_, ?_, ?_, ?_, ?_, ?_, ?_, ?_, ?_⟩ <;>
    exact evexSuppressedRuns (by decide) (by decide) fun _ _ => rfl

end Sys2Proof.Machine
end

section
/-!
SUPPORT. What no form may run without, and what no step may run with: the features of its row (R219), CR0.TS clear
(R223), and no debug facility armed (R252). The `#UD` conditions of the classes are put together as one condition of a
form, `formUd`; a form answers `#UD` exactly under it.
-/
namespace Sys2Proof.Machine
open Sys2Proof.Safety

/-! ### No source raises `#UD` -/

theorem rangeFault_ne_ud (seg : Seg) : rangeFault seg ≠ .ud := by
  unfold rangeFault
  split_ifs <;> exact nofun

theorem memRead_ne_ud {s : State} {seg : Seg} {lin L : Nat} {al : Bool} {shape : AcShape} :
    memRead s seg lin L al shape ≠ .error (.fault .ud) := by
  rw [Ne, memRead_eq_error]
  rintro (⟨-, hrange⟩ | ⟨-, -, -, hgp⟩ | ⟨-, -, code, -, hpf⟩ | ⟨-, -, -, -, hac⟩)
  · exact rangeFault_ne_ud seg hrange.symm
  · cases hgp
  · cases hpf
  · cases hac

theorem memReadMasked_ne_ud {s : State} {seg : Seg} {lin w L : Nat} {mask : BitVec 64} :
    memReadMasked s seg lin w L mask ≠ .error (.fault .ud) := by
  rw [Ne, memReadMasked_eq_error]
  rintro (⟨-, hrange⟩ | ⟨-, code, -, hpf⟩ | ⟨-, -, -, -, hac⟩)
  · exact rangeFault_ne_ud seg hrange.symm
  · cases hpf
  · cases hac

theorem mmxSource_ne_ud (s : State) (f : LegacyForm) : mmxSource s f ≠ .error (.fault .ud) := by
  unfold mmxSource
  split
  · exact nofun
  · exact memRead_ne_ud

theorem xmmSource_ne_ud (s : State) (f : LegacyForm) : xmmSource s f ≠ .error (.fault .ud) := by
  unfold xmmSource
  split
  · exact nofun
  · exact memRead_ne_ud

theorem vexSource_ne_ud (VL : Nat) (s : State) (f : VexForm) : vexSource VL s f ≠ .error (.fault .ud) := by
  unfold vexSource
  split
  · exact nofun
  · exact memRead_ne_ud

theorem evexMemSource_ne_ud {w VL : Nat} {s : State} {f : EvexForm} {m : MemRef} :
    evexMemSource w VL s f m ≠ .error (.fault .ud) := by
  dsimp only [evexMemSource]
  split_ifs
  · exact nofun
  · cases hread : memRead s (segmentOf f.pfx (!f.bBar) m) (evexAddress w VL s f m) w false .broadcast with
    | ok e => exact nofun
    | error stop =>
      rintro ⟨⟩
      exact memRead_ne_ud hread
  · exact memReadMasked_ne_ud
  · exact memRead_ne_ud

theorem evexSource_ne_ud (w VL : Nat) (s : State) (f : EvexForm) : evexSource w VL s f ≠ .error (.fault .ud) := by
  unfold evexSource
  split
  · exact nofun
  · exact evexMemSource_ne_ud

/-! ### The shared meanings answer `#UD` exactly under the `#UD` conditions of their class -/

theorem udThenNm_eq_ud (c : Config) (ud : Bool) : udThenNm c ud = some .ud ↔ ud = true := by
  simp [udThenNm_eq_some]

theorem execMmx_eq_ud (w : Nat) (f : LegacyForm) (s : State) :
    execMmx w f s = .fault .ud ↔ mmxUd s.cfg f = true := by
  simp [execMmx_eq_fault, mmxChecks_eq_some, mmxSource_ne_ud]

theorem execXmm_eq_ud (w : Nat) (f : LegacyForm) (s : State) :
    execXmm w f s = .fault .ud ↔ xmmUd s.cfg f = true := by
  simp [execXmm_eq_fault, xmmChecks, udThenNm_eq_ud, xmmSource_ne_ud]

theorem execVex_eq_ud (w VL : Nat) (x : Feature) (f : VexForm) (s : State) :
    execVex w VL x f s = .fault .ud ↔ vexUd s.cfg x f = true := by
  simp [execVex_eq_fault, vexChecks, udThenNm_eq_ud, vexSource_ne_ud]

theorem execEvex_eq_ud (w VL : Nat) (bcst : Bool) (fs : List Feature) (f : EvexForm) (s : State) :
    execEvex w VL bcst fs f s = .fault .ud ↔ evexUd s.cfg bcst fs f = true := by
  simp [execEvex_eq_fault, evexChecks, udThenNm_eq_ud, evexSource_ne_ud]

/-! ### The `#UD` condition of a form -/

/-- The `#UD` conditions of a form: its class's, with the features of its row (R89, R218 to R222). -/
def formUd (c : Config) (i : Instr) : Bool :=
  match i with
  | .pabsbMm f | .pabswMm f | .pabsdMm f => mmxUd c f
  | .pabsbXmm f | .pabswXmm f | .pabsdXmm f => xmmUd c f
  | .vpabsbVex128 f | .vpabswVex128 f | .vpabsdVex128 f => vexUd c .avx f
  | .vpabsbVex256 f | .vpabswVex256 f | .vpabsdVex256 f => vexUd c .avx2 f
  | .vpabsbEvex128 f | .vpabsbEvex256 f | .vpabsbEvex512 f
  | .vpabswEvex128 f | .vpabswEvex256 f | .vpabswEvex512 f => evexUd c false (rowFeatures i) f
  | .vpabsdEvex128 f | .vpabsdEvex256 f | .vpabsdEvex512 f
  | .vpabsqEvex128 f | .vpabsqEvex256 f | .vpabsqEvex512 f => evexUd c true (rowFeatures i) f

theorem exec_eq_ud (i : Instr) (s : State) : exec i s = .fault .ud ↔ formUd s.cfg i = true := by
  cases i with
  | pabsbMm f | pabswMm f | pabsdMm f => exact execMmx_eq_ud ..
  | pabsbXmm f | pabswXmm f | pabsdXmm f => exact execXmm_eq_ud ..
  | vpabsbVex128 f | vpabswVex128 f | vpabsdVex128 f | vpabsbVex256 f | vpabswVex256 f | vpabsdVex256 f =>
    exact execVex_eq_ud ..
  | vpabsbEvex128 f | vpabsbEvex256 f | vpabsbEvex512 f | vpabswEvex128 f | vpabswEvex256 f | vpabswEvex512 f
  | vpabsdEvex128 f | vpabsdEvex256 f | vpabsdEvex512 f | vpabsqEvex128 f | vpabsqEvex256 f | vpabsqEvex512 f =>
    exact execEvex_eq_ud ..

/-- R223: `#NM` comes right after `#UD`, in every class. -/
theorem exec_of_nm {i : Instr} {s : State} (h : formUd s.cfg i = false) (hts : s.cfg.env.cr0Ts = true) :
    exec i s = .fault .nm := by
  cases i with
  | pabsbMm f | pabswMm f | pabsdMm f => exact execMmx_of_nm h hts
  | pabsbXmm f | pabswXmm f | pabsdXmm f => exact execXmm_of_nm h hts
  | vpabsbVex128 f | vpabswVex128 f | vpabsdVex128 f | vpabsbVex256 f | vpabswVex256 f | vpabsdVex256 f =>
    exact execVex_of_nm h hts
  | vpabsbEvex128 f | vpabsbEvex256 f | vpabsbEvex512 f | vpabswEvex128 f | vpabswEvex256 f | vpabswEvex512 f
  | vpabsdEvex128 f | vpabsdEvex256 f | vpabsdEvex512 f | vpabsqEvex128 f | vpabsqEvex256 f | vpabsqEvex512 f =>
    exact execEvex_of_nm h hts

/-! ### Features (R219) -/

theorem hasFeatures_of_formUd_eq_false {c : Config} {i : Instr} (h : formUd c i = false) :
    HasFeatures c (rowFeatures i) := by
  cases i with
  | pabsbMm f | pabswMm f | pabsdMm f =>
    obtain ⟨-, hssse3, -⟩ := (mmxUd_eq_false ..).1 h
    exact List.forall_mem_singleton.2 hssse3
  | pabsbXmm f | pabswXmm f | pabsdXmm f =>
    obtain ⟨-, hssse3, -⟩ := (xmmUd_eq_false ..).1 h
    exact List.forall_mem_singleton.2 hssse3
  | vpabsbVex128 f | vpabswVex128 f | vpabsdVex128 f | vpabsbVex256 f | vpabswVex256 f | vpabsdVex256 f =>
    obtain ⟨-, -, hfeature, -⟩ := (vexUd_eq_false ..).1 h
    exact List.forall_mem_singleton.2 hfeature
  | vpabsbEvex128 f | vpabsbEvex256 f | vpabsbEvex512 f | vpabswEvex128 f | vpabswEvex256 f | vpabswEvex512 f
  | vpabsdEvex128 f | vpabsdEvex256 f | vpabsdEvex512 f | vpabsqEvex128 f | vpabsqEvex256 f | vpabsqEvex512 f =>
    obtain ⟨-, -, hfeatures, -⟩ := (evexUd_eq_false ..).1 h
    exact hfeatures

/-- Settles O38: a form that meets no `#UD` condition has the features of its row. -/
theorem missingFeatureIsInvalidOpcode : Obligations.MissingFeatureIsInvalidOpcode := by
  rintro i s ⟨x, hx, hmissing⟩
  refine (exec_eq_ud i s).2 (Bool.eq_true_of_not_eq_false fun h => ?_)
  exact Bool.false_ne_true (hmissing.symm.trans (hasFeatures_of_formUd_eq_false h x hx))

/-! ### CR0.TS (R223) -/

/-- CR0.TS is in no `#UD` condition. -/
theorem formUd_withTs (c : Config) (b : Bool) (i : Instr) :
    formUd { c with env := { c.env with cr0Ts := b } } i = formUd c i := by
  cases i <;> rfl

/-- Settles O39: CR0.TS decides `#NM` once the `#UD` conditions, which do not read it, fail. -/
theorem taskSwitchedIsDeviceNotAvailable : Obligations.TaskSwitchedIsDeviceNotAvailable := by
  intro i s hts
  rw [Ne, exec_eq_ud, formUd_withTs, exec_eq_ud, Bool.not_eq_true]
  exact ⟨id, fun h => exec_of_nm h hts⟩

/-! ### Debug facilities (R252) -/

/-- Settles O44: away from `endAddr` the debug facility is looked at before anything is fetched. -/
theorem armedDebugIsRefused : Obligations.ArmedDebugIsRefused := by
  intro s hfinal hdebug
  rw [Final] at hfinal
  rw [NoDebug, Bool.not_eq_false] at hdebug
  rw [step, if_neg hfinal, if_pos hdebug]

end Sys2Proof.Machine
end

section
/-!
SUPPORT. The privilege level (`60_exceptions.md` R247): the checks and the writes of a form do not read it, and a memory
source reads it through `Access` and through the alignment check alone (`10_state.md` R29).
-/
namespace Sys2Proof.Machine
open Sys2Proof.Safety

/-! ### The source at another privilege level -/

/-- Data reads are checked alike at the level of `s` and at `p` (R58, R62). -/
def ChecksReadsAlike (s : State) (p : BitVec 2) : Prop :=
  (∀ lin n, accessCheck (withCpl s p).cfg .dataRead lin n = accessCheck s.cfg .dataRead lin n) ∧
    alignmentCheckingOn (withCpl s p).cfg.env = alignmentCheckingOn s.cfg.env

section
variable {s : State} {p : BitVec 2}

theorem memRead_withCpl (h : ChecksReadsAlike s p) (seg : Seg) (lin L : Nat) (al : Bool) (shape : AcShape) :
    memRead (withCpl s p) seg lin L al shape = memRead s seg lin L al shape := by
  obtain ⟨haccess, hac⟩ := h
  exact memRead_withEnv s _ seg lin L al shape haccess hac

theorem memReadMasked_withCpl (h : ChecksReadsAlike s p) (seg : Seg) (lin w L : Nat) (mask : BitVec 64) :
    memReadMasked (withCpl s p) seg lin w L mask = memReadMasked s seg lin w L mask := by
  obtain ⟨haccess, hac⟩ := h
  exact memReadMasked_withEnv s _ seg lin w L mask haccess hac

theorem mmxSource_withCpl {f : LegacyForm} (h : (∃ rm, f.rm = .reg rm) ∨ ChecksReadsAlike s p) :
    mmxSource (withCpl s p) f = mmxSource s f := by
  unfold mmxSource
  cases hrm : f.rm with
  | reg rm => rfl
  | mem m => exact memRead_withCpl (h.resolve_left (by simp [hrm])) ..

theorem xmmSource_withCpl {f : LegacyForm} (h : (∃ rm, f.rm = .reg rm) ∨ ChecksReadsAlike s p) :
    xmmSource (withCpl s p) f = xmmSource s f := by
  unfold xmmSource
  cases hrm : f.rm with
  | reg rm => rfl
  | mem m => exact memRead_withCpl (h.resolve_left (by simp [hrm])) ..

theorem vexSource_withCpl {VL : Nat} {f : VexForm} (h : (∃ rm, f.rm = .reg rm) ∨ ChecksReadsAlike s p) :
    vexSource VL (withCpl s p) f = vexSource VL s f := by
  unfold vexSource
  cases hrm : f.rm with
  | reg rm => rfl
  | mem m => exact memRead_withCpl (h.resolve_left (by simp [hrm])) ..

theorem evexMemSource_withCpl {w VL : Nat} {f : EvexForm} {m : MemRef} (h : ChecksReadsAlike s p) :
    evexMemSource w VL (withCpl s p) f m = evexMemSource w VL s f m := by
  simp only [evexMemSource, memRead_withCpl h, memReadMasked_withCpl h]
  rfl

theorem evexSource_withCpl {w VL : Nat} {f : EvexForm} (h : (∃ rm, f.rm = .reg rm) ∨ ChecksReadsAlike s p) :
    evexSource w VL (withCpl s p) f = evexSource w VL s f := by
  unfold evexSource
  cases hrm : f.rm with
  | reg rm => rfl
  | mem m => exact evexMemSource_withCpl (h.resolve_left (by simp [hrm]))

/-! ### The forms at another privilege level -/

/-- An outcome with its next state, if it has one, mapped. -/
def mapNext (g : State → State) : Host.Outcome State Fault Refusal → Host.Outcome State Fault Refusal
  | .next t    => .next (g t)
  | .fault e   => .fault e
  | .refused r => .refused r

theorem execMmx_withCpl {w : Nat} {f : LegacyForm} (h : (∃ rm, f.rm = .reg rm) ∨ ChecksReadsAlike s p) :
    execMmx w f (withCpl s p) = mapNext (withCpl · p) (execMmx w f s) := by
  have hchecks : mmxChecks (withCpl s p).cfg f = mmxChecks s.cfg f := rfl
  rw [execMmx, execMmx, hchecks, mmxSource_withCpl h]
  cases mmxChecks s.cfg f with
  | some e => rfl
  | none => rcases mmxSource s f with (_ | _) | _ <;> rfl

theorem execXmm_withCpl {w : Nat} {f : LegacyForm} (h : (∃ rm, f.rm = .reg rm) ∨ ChecksReadsAlike s p) :
    execXmm w f (withCpl s p) = mapNext (withCpl · p) (execXmm w f s) := by
  have hchecks : xmmChecks (withCpl s p).cfg f = xmmChecks s.cfg f := rfl
  rw [execXmm, execXmm, hchecks, xmmSource_withCpl h]
  cases xmmChecks s.cfg f with
  | some e => rfl
  | none => rcases xmmSource s f with (_ | _) | _ <;> rfl

theorem execVex_withCpl {w VL : Nat} {x : Feature} {f : VexForm}
    (h : (∃ rm, f.rm = .reg rm) ∨ ChecksReadsAlike s p) :
    execVex w VL x f (withCpl s p) = mapNext (withCpl · p) (execVex w VL x f s) := by
  have hchecks : vexChecks (withCpl s p).cfg x f = vexChecks s.cfg x f := rfl
  rw [execVex, execVex, hchecks, vexSource_withCpl h]
  cases vexChecks s.cfg x f with
  | some e => rfl
  | none => rcases vexSource VL s f with (_ | _) | _ <;> rfl

theorem execEvex_withCpl {w VL : Nat} {bcst : Bool} {fs : List Feature} {f : EvexForm}
    (h : (∃ rm, f.rm = .reg rm) ∨ ChecksReadsAlike s p) :
    execEvex w VL bcst fs f (withCpl s p) = mapNext (withCpl · p) (execEvex w VL bcst fs f s) := by
  have hchecks : evexChecks (withCpl s p).cfg bcst fs f = evexChecks s.cfg bcst fs f := rfl
  rw [execEvex, execEvex, hchecks, evexSource_withCpl h]
  cases evexChecks s.cfg bcst fs f with
  | some e => rfl
  | none => rcases evexSource w VL s f with (_ | _) | _ <;> rfl

/-- A form ends at level `p` as at the level of `s`, but for the level itself. -/
theorem exec_withCpl {i : Instr} (h : (∃ rm, sourceOf i = .reg rm) ∨ ChecksReadsAlike s p) :
    exec i (withCpl s p) = mapNext (withCpl · p) (exec i s) := by
  cases i with
  | pabsbMm f | pabswMm f | pabsdMm f => exact execMmx_withCpl h
  | pabsbXmm f | pabswXmm f | pabsdXmm f => exact execXmm_withCpl h
  | vpabsbVex128 f | vpabswVex128 f | vpabsdVex128 f | vpabsbVex256 f | vpabswVex256 f | vpabsdVex256 f =>
    exact execVex_withCpl h
  | vpabsbEvex128 f | vpabsbEvex256 f | vpabsbEvex512 f | vpabswEvex128 f | vpabswEvex256 f | vpabswEvex512 f
  | vpabsdEvex128 f | vpabsdEvex256 f | vpabsdEvex512 f | vpabsqEvex128 f | vpabsqEvex256 f | vpabsqEvex512 f =>
    exact execEvex_withCpl h

end

/-- Settles O52: a form's outcome at level `p` is the one at its own level with the level of the next state set. -/
theorem privilegeDoesNotMatter : Obligations.PrivilegeDoesNotMatter := by
  intro i s p h
  rw [exec_withCpl h]
  cases exec i s <;> rfl

end Sys2Proof.Machine
end

section
/-!
SUPPORT. The launch and the run (`70_reset_and_hazards.md` sections 2 and 3): what every step keeps, every run keeps;
and a program text launched at its base runs instruction by instruction to `endAddr` (R262, R263, R268).
-/
namespace Sys2Proof.Machine
open Sys2Proof.Safety

/-! ### One step (R268, R270) -/

/-- Settles O40: what the decoder answers is well formed, and the step runs it. -/
theorem stepRunsTheDecodedInstruction : Obligations.StepRunsTheDecodedInstruction := by
  intro s i rest hfinal hdebug hdecode
  obtain ⟨hwf, -⟩ := decode_ok hdecode
  exact ⟨hwf, step_eq_exec hfinal hdebug hdecode⟩

/-- Settles O43: the end address is looked at before anything is fetched. -/
theorem endAddressIsFinal : Obligations.EndAddressIsFinal := fun s hfinal =>
  (step_eq_next s s).2 (.inl ⟨hfinal, rfl⟩)

/-! ### What every run keeps -/

theorem run_succ_eq_next (n : Nat) (s t : State) :
    Sys2Proof.core.run (n + 1) s = .next t ↔ ∃ u, step s = .next u ∧ Sys2Proof.core.run n u = .next t := by
  cases h : step s with
  | next u => simp [run_succ_of_next h]
  | fault e => simp [run_succ_of_fault h]
  | refused r => simp [run_succ_of_refused h]

/-- What holds at first and is kept by every step holds after any run. -/
theorem run_induction {P : State → Prop} (hstep : ∀ s t, P s → step s = .next t → P t) (n : Nat) {s t : State}
    (hs : P s) (hrun : Sys2Proof.core.run n s = .next t) : P t := by
  induction n generalizing s with
  | zero =>
    cases hrun
    exact hs
  | succ n ih =>
    obtain ⟨u, hfirst, hrest⟩ := (run_succ_eq_next n s t).1 hrun
    exact ih (hstep s u hs hfirst) hrest

theorem cfg_of_sameSystem {s t : State} (h : SameSystem s t) : t.cfg = s.cfg := by
  obtain ⟨-, -, -, -, -, hcfg⟩ := h
  exact hcfg

theorem textAt_of_sameSystem {s t : State} {a : Nat} {bytes : List Byte} (h : SameSystem s t)
    (htext : TextAt s.mem a bytes) : TextAt t.mem a bytes := by
  obtain ⟨hmem, -⟩ := h
  exact fun i hi => (hmem (a + i)).trans (htext i hi)

/-- Settles O47: no step writes memory, so every run keeps the text. -/
theorem programTextStaysFixed : Obligations.ProgramTextStaysFixed := by
  rintro s base bytes ⟨htext, -⟩ n t hrun
  refine run_induction (P := fun u => TextAt u.mem base.toNat bytes) (fun u v hu hstep => ?_) n htext hrun
  obtain ⟨hsystem, -⟩ := stepLeavesSystemStateAlone u v hstep
  exact textAt_of_sameSystem hsystem hu

/-! ### A program text in the address space (R262) -/

/-- A text in two parts stands as the one part and, behind it, the other. -/
theorem textAt_parts {m : Memory} {a : Nat} {bs cs : List Byte} (h : TextAt m a (bs ++ cs)) :
    TextAt m a bs ∧ TextAt m (a + bs.length) cs := by
  have hlen : (bs ++ cs).length = bs.length + cs.length := List.length_append
  refine ⟨fun i hi => ?_, fun i hi => ?_⟩
  · rw [h i (by omega), List.getElem_append_left hi]
  · rw [Nat.add_assoc, h (bs.length + i) (by omega), List.getElem_append_right (by omega)]
    simp only [Nat.add_sub_cancel_left]

theorem lt_of_canonical {law : LinearWidth} {a : Nat} (h : canonical law a = true) : a < 2 ^ 64 :=
  ((canonical_eq_true law a).1 h).1

section
variable {s : State} {base : BitVec 64} {bytes : List Byte}

/-- Every byte of a program text lies below `2^64`. -/
theorem lt_top_of_programAt (h : ProgramAt s base bytes) {i : Nat} (hi : i < bytes.length) :
    base.toNat + i < 2 ^ 64 := by
  obtain ⟨-, -, h32, h64⟩ := h
  cases hmode : s.cfg.mode with
  | mode64 => exact lt_of_canonical (h64 hmode i hi)
  | mode32 =>
    have := h32 hmode
    omega

/-- A program text does not fill the address space, so its end is not its base: in 64-bit mode the address `2^62` is
not canonical. -/
theorem length_lt_of_programAt (h : ProgramAt s base bytes) : bytes.length < 2 ^ 64 := by
  by_contra hlen
  have hbase : base.toNat = 0 := by
    have := lt_top_of_programAt h (i := 2 ^ 64 - 1) (by omega)
    omega
  obtain ⟨-, -, h32, h64⟩ := h
  cases hmode : s.cfg.mode with
  | mode64 =>
    have hcanonical := h64 hmode (2 ^ 62) (by omega)
    rw [hbase] at hcanonical
    revert hcanonical
    cases s.cfg.law <;> decide
  | mode32 =>
    have := h32 hmode
    omega

/-- The first instruction of a program text is fetched at its base, in 32-bit mode too (R68). -/
theorem fetchAddress_of_programAt (h : ProgramAt s base bytes) (hne : 0 < bytes.length) :
    fetchAddress s = base.toNat := by
  obtain ⟨-, hrip, h32, -⟩ := h
  unfold fetchAddress
  rw [hrip]
  split
  · rfl
  next hmode =>
    have := h32 hmode
    rw [BitVec.toNat_setWidth, Nat.mod_eq_of_lt (by omega)]

end

section
variable {s t : State} {base : BitVec 64} {bs cs : List Byte}

/-- The bytes after the first `n` of a program text begin `n` bytes further on, without a wrap. -/
theorem toNat_add_of_programAt (h : ProgramAt s base (bs ++ cs)) (hne : 0 < cs.length) :
    (base + BitVec.ofNat 64 bs.length).toNat = base.toNat + bs.length := by
  have := lt_top_of_programAt h (i := bs.length) (by rw [List.length_append]; omega)
  rw [BitVec.toNat_add, BitVec.toNat_ofNat, Nat.add_mod_mod, Nat.mod_eq_of_lt this]

/-- Past its first bytes a program text is the program text of the rest. -/
theorem programAt_tail (h : ProgramAt s base (bs ++ cs)) (hsystem : SameSystem s t)
    (hrip : t.rip = s.rip + BitVec.ofNat 64 bs.length) : ProgramAt t (base + BitVec.ofNat 64 bs.length) cs := by
  have haddr := toNat_add_of_programAt h
  obtain ⟨htext, hbase, h32, h64⟩ := h
  obtain ⟨-, htail⟩ := textAt_parts htext
  have hcfg := cfg_of_sameSystem hsystem
  rw [List.length_append] at h32 h64
  refine ⟨fun i hi => ?text, by rw [hrip, hbase], fun hmode => ?space32, fun hmode i hi => ?space64⟩
  case text =>
    rw [haddr (by omega)]
    exact textAt_of_sameSystem hsystem htail i hi
  case space32 =>
    rw [hcfg] at hmode
    have := h32 hmode
    rw [BitVec.toNat_add, BitVec.toNat_ofNat]
    omega
  case space64 =>
    rw [hcfg] at hmode ⊢
    rw [haddr (by omega), Nat.add_assoc]
    exact h64 hmode _ (by omega)

/-- Past the first bytes of a program text the rest of it can still be fetched. -/
theorem fetchable_tail (h : ProgramAt s base (bs ++ cs)) (hfetch : Fetchable s (bs ++ cs).length)
    (hsystem : SameSystem s t) (hrip : t.rip = s.rip + BitVec.ofNat 64 bs.length) : Fetchable t cs.length := by
  intro i hi
  have htail := programAt_tail h hsystem hrip
  have haddr : fetchAddress t + i = fetchAddress s + (bs.length + i) := by
    rw [fetchAddress_of_programAt htail (by omega), toNat_add_of_programAt h (by omega),
      fetchAddress_of_programAt h (by rw [List.length_append]; omega), Nat.add_assoc]
  rw [cfg_of_sameSystem hsystem, haddr]
  exact hfetch _ (by rw [List.length_append]; omega)

end

/-! ### A launched list of instructions (R262) -/

/-- The launch premises for a list of instructions whose text begins at `rip`. -/
structure Launched (s : State) (is : List Instr) : Prop where
  wellFormed : ∀ i ∈ is, i.wellFormed s.cfg.mode = true ∧ i.len ≤ 15
  program : ProgramAt s s.rip (is.flatMap encode)
  fetchable : Fetchable s (is.flatMap encode).length
  noDebug : NoDebug s.cfg
  endsAt : s.cfg.endAddr = s.rip + BitVec.ofNat 64 (is.flatMap encode).length

section
variable {s t : State} {i : Instr} {is : List Instr}

theorem length_flatMap_encode_cons (i : Instr) (is : List Instr) :
    ((i :: is).flatMap encode).length = i.len + (is.flatMap encode).length := by
  rw [List.flatMap_cons, List.length_append, encode_length]

theorem Launched.final_of_nil (h : Launched s []) : Final s := by
  have := h.endsAt
  rw [List.flatMap_nil, List.length_nil, BitVec.add_zero] at this
  exact this.symm

theorem Launched.not_final (h : Launched s (i :: is)) : ¬ Final s := by
  have hlt := length_lt_of_programAt h.program
  have hpos := one_le_len i
  intro hfinal
  have hends := hfinal.trans h.endsAt
  rw [length_flatMap_encode_cons] at hlt hends
  have := congrArg BitVec.toNat hends
  rw [BitVec.toNat_add, BitVec.toNat_ofNat, Nat.mod_eq_of_lt hlt] at this
  omega

/-- The first step of a launched list runs its first instruction. -/
theorem Launched.step_eq (h : Launched s (i :: is)) : step s = exec i s := by
  obtain ⟨hwf, hlen⟩ := h.wellFormed i List.mem_cons_self
  have hpos := one_le_len i
  have haddr := fetchAddress_of_programAt h.program (by rw [length_flatMap_encode_cons]; omega)
  have htext : TextAt s.mem (fetchAddress s) (encode i) := by
    obtain ⟨htext, -⟩ := h.program
    rw [haddr]
    exact (textAt_parts htext).1
  have hfetch : Fetchable s i.len := fun j hj =>
    h.fetchable j (by rw [length_flatMap_encode_cons]; omega)
  exact programTextRuns s i h.not_final h.noDebug hwf hlen htext hfetch

theorem sameSystem_of_exec (h : exec i s = .next t) : SameSystem s t := by
  obtain ⟨⟨d, -, -, hsystem⟩ | ⟨d, -, -, hsystem⟩, -⟩ := exec_frame h
  · exact hsystem
  · exact hsystem

/-- After the first instruction the rest of the list stands launched. -/
theorem Launched.next (h : Launched s (i :: is)) (hexec : exec i s = .next t) : Launched t is := by
  have hsystem := sameSystem_of_exec hexec
  obtain ⟨-, hrip⟩ := exec_frame hexec
  have hcfg := cfg_of_sameSystem hsystem
  rw [← encode_length] at hrip
  have hprogram : ProgramAt t t.rip (is.flatMap encode) := by
    rw [hrip]
    exact programAt_tail h.program hsystem hrip
  refine ⟨?wellFormed, hprogram, fetchable_tail h.program h.fetchable hsystem hrip, ?noDebug, ?endsAt⟩
  case wellFormed =>
    rw [hcfg]
    exact fun j hj => h.wellFormed j (List.mem_cons_of_mem _ hj)
  case noDebug =>
    rw [hcfg]
    exact h.noDebug
  case endsAt =>
    rw [hcfg, h.endsAt, hrip, length_flatMap_encode_cons, encode_length, BitVec.ofNat_add, BitVec.add_assoc]

end

section
variable {s t : State} {i : Instr}

theorem execAll_cons_of_next (h : exec i s = .next t) (is : List Instr) : execAll (i :: is) s = execAll is t := by
  rw [execAll, h]

theorem execAll_cons_of_fault {e : Fault} (h : exec i s = .fault e) (is : List Instr) :
    execAll (i :: is) s = .fault e := by
  simp only [execAll, h]

theorem execAll_cons_of_refused {r : Refusal} (h : exec i s = .refused r) (is : List Instr) :
    execAll (i :: is) s = .refused r := by
  simp only [execAll, h]

theorem execAll_cons_eq_next (is : List Instr) :
    execAll (i :: is) s = .next t ↔ ∃ u, exec i s = .next u ∧ execAll is u = .next t := by
  cases h : exec i s with
  | next u => simp [execAll_cons_of_next h]
  | fault e => simp [execAll_cons_of_fault h]
  | refused r => simp [execAll_cons_of_refused h]

end

/-- A launched list runs in order: as many steps as it has instructions give what they give one after another. -/
theorem Launched.run_eq {s : State} {is : List Instr} (h : Launched s is) :
    Sys2Proof.core.run is.length s = execAll is s := by
  induction is generalizing s with
  | nil => rfl
  | cons i is ih =>
    have hstep := h.step_eq
    cases hexec : exec i s with
    | next t =>
      have hrest := (ih (h.next hexec)).trans (execAll_cons_of_next hexec is).symm
      exact (run_succ_of_next (hstep.trans hexec) is.length).trans hrest
    | fault e => exact (run_succ_of_fault (hstep.trans hexec) is.length).trans (execAll_cons_of_fault hexec is).symm
    | refused r =>
      exact (run_succ_of_refused (hstep.trans hexec) is.length).trans (execAll_cons_of_refused hexec is).symm

/-- A launched list that runs through ends at `endAddr` (R268). -/
theorem Launched.final {s t : State} {is : List Instr} (h : Launched s is) (hrun : execAll is s = .next t) :
    Final t := by
  induction is generalizing s with
  | nil =>
    cases hrun
    exact h.final_of_nil
  | cons i is ih =>
    obtain ⟨u, hexec, hrest⟩ := (execAll_cons_eq_next is).1 hrun
    exact ih (h.next hexec) hrest

/-- Settles O42, by induction on the list: each step runs the first instruction and leaves the rest launched. -/
theorem launchedTextRunsInOrder : Obligations.LaunchedTextRunsInOrder := by
  intro s base is hwf hprogram hfetch hdebug hends
  obtain rfl : s.rip = base := by
    obtain ⟨-, hrip, -⟩ := hprogram
    exact hrip
  have h : Launched s is := ⟨hwf, hprogram, hfetch, hdebug, hends⟩
  exact ⟨h.run_eq, fun t hrun => ⟨h.run_eq.trans hrun, h.final hrun⟩⟩

end Sys2Proof.Machine
end
